-- ==== Sys2Proof/Word.lean ====
section
/-! DEFINITION. The byte and the 16-bit address word of the machine (R10). -/

namespace Sys2Proof

/-- The 8-bit data unit of every bus cycle, register and memory cell (R10, R112). -/
abbrev Byte := BitVec 8

/-- A 16-bit CPU address or program counter (R22, R66). -/
abbrev Word := BitVec 16

end Sys2Proof
end

