-- ==== Sys2Proof/Machine/Bits.lean ====
section
/-! DEFINITION. Bit-field, extension and byte-order helpers (R10, R110, R236). -/

namespace Sys2Proof.Machine

/-- `lo(w)`, bits 7:0 (R10). -/
def lo (w : Word) : Byte := w.extractLsb' 0 8

/-- `hi(w)`, bits 15:8 (R10). -/
def hi (w : Word) : Byte := w.extractLsb' 8 8

/-- `word(h, l)`: the byte at the lower address is the low byte (R10, R110). -/
def word (h l : Byte) : Word := h ++ l

/-- `zext_16(b)` (R10). -/
def zext (b : Byte) : Word := b.setWidth 16

/-- `sext_16(b)`: the one sign extension of the machine, the branch displacement (R10, R236 (e)). -/
def sext (b : Byte) : Word := b.signExtend 16

/-- A Boolean as bit `k` of a byte. -/
def bitAt (k : Nat) (b : Bool) : Byte := if b then (1 : Byte) <<< k else 0

/-- `bitreverse8` (R413). -/
def bitReverse (b : Byte) : Byte := b.reverse

/-- A multiplexer of two bytes. -/
def pick (b : Bool) (x y : Byte) : Byte := if b then x else y

end Sys2Proof.Machine
end

