-- ==== Sys2Proof/Config.lean ====
section
/-! DEFINITION. The launch parameters the spec leaves OPEN (R9, 93 part 3), and the free values: opaque constants with no body, so that no proof can lean on a value of theirs. -/

namespace Sys2Proof

/-- The candidates of the CPU open-bus value (R71). -/
inductive OpenBus where
  /-- candidate (a): `DBUS`, the last value on the data bus (the suggested default) -/
  | lastDriven
  /-- candidate (b): the high byte of the address -/
  | addressHigh
  /-- U2's safe treatment: any value, a fresh free byte for every such read -/
  | anyValue
  deriving DecidableEq, Repr

/-- Which `PPUSTATUS` reads mute the vertical blank: the rules give two readings, which differ where (241, 1) is the second dot after the access (log entry 27). -/
inductive MuteWindow where
  /-- the read that finds (241, 1) as the next dot: R403's test, R392, 91 N32 -/
  | nextDot
  /-- the read of the bus cycle whose second half-step executes (241, 1): R571 (b), D24 -/
  | secondHalf
  deriving DecidableEq, Repr

/-- What an implementation or its host fixes at launch and no instruction ever changes (R9).
It is held in `State`, so a claim over every state holds for every launch. -/
structure Config where
  /-- `PPU_OFFSET`, 0..3 (D7, R87) -/
  ppuOffset : Fin 4
  /-- `CPU_OPEN_BUS` (D14, R71) -/
  cpuOpenBus : OpenBus
  /-- `SAMPLE_RATE_HZ`, positive (D28, R474); a rational number of hertz, DESIGN CHOICE, notes/assumptions/3.md -/
  sampleRateHz : Rat
  /-- `DC_FILTER_COEFF`, between 0 and 1 (D28, R472); a rational number, DESIGN CHOICE, notes/assumptions/3.md -/
  dcFilterCoeff : Rat
  /-- the model's own: the muted vblank's window, on which the rules disagree; DESIGN CHOICE, notes/assumptions/27.md -/
  muteWindow : MuteWindow
  deriving DecidableEq, Repr

namespace Config

/-- The spec's suggested defaults (93 part 3) for the two parameters a program can observe.
For the two audio parameters the spec suggests nothing: DESIGN CHOICE, notes/assumptions/3.md.
The mute window is R403's: DESIGN CHOICE, notes/assumptions/27.md. -/
def suggested : Config :=
  { ppuOffset := 1, cpuOpenBus := .lastDriven, sampleRateHz := 44100, dcFilterCoeff := 995 / 1000,
    muteWindow := .nextDot }

/-- Free value: `UNSTABLE_LXA(A, M)` (R316, U5); the first argument is the draw counter of `State`. -/
opaque unstableLxa : Nat → Byte → Byte → Byte

/-- Free value: `UNSTABLE_XAA(A, X, M)` (R317, U6). -/
opaque unstableXaa : Nat → Byte → Byte → Byte → Byte

/-- Free value: the byte written by `UNSTABLE_SH(reg, b2, crossed, ea)` (R321, U7). -/
opaque unstableShValue : Nat → Byte → Byte → Bool → Word → Byte

/-- Free value: the high byte of the address `UNSTABLE_SH` writes when the index crossed a page (R321, R323, U7). -/
opaque unstableShHigh : Nat → Byte → Byte → Bool → Word → Byte

/-- Free value: a CPU read nothing answers, under `OpenBus.anyValue` (R71, U2). -/
opaque openBusByte : Nat → Word → Byte

/-- Free value: the host's colour table `SYSTEM_PALETTE`, (6-bit colour, emphasis bits) to a 32-bit colour (R419, U10). -/
opaque systemPalette : BitVec 6 → BitVec 3 → BitVec 32

end Config

end Sys2Proof
end

