-- ==== Sys2Proof/Syntax.lean ====
section
/-! DEFINITION. The instructions: one constructor for each of the 256 rows of spec/opcode_table.json (R134), with the operand its encoding holds (R131, R132). -/

namespace Sys2Proof

/-- An instruction: its opcode value and the operand bytes of its format (R131).
`v` is an immediate byte, `z` a zero-page address, `a` a 16-bit address whose low byte comes first in memory, `d` a signed displacement.
A name is the mnemonic and the addressing mode, and the opcode value too where several rows share both. -/
inductive Instr where
  -- Loads (41, R190 to R192)
  | ldaIzx (z : Byte)
  | ldaZp (z : Byte)
  | ldaImm (v : Byte)
  | ldaAbs (a : Word)
  | ldaIzy (z : Byte)
  | ldaZpx (z : Byte)
  | ldaAby (a : Word)
  | ldaAbx (a : Word)
  | ldxImm (v : Byte)
  | ldxZp (z : Byte)
  | ldxAbs (a : Word)
  | ldxZpy (z : Byte)
  | ldxAby (a : Word)
  | ldyImm (v : Byte)
  | ldyZp (z : Byte)
  | ldyAbs (a : Word)
  | ldyZpx (z : Byte)
  | ldyAbx (a : Word)
  -- Stores (41, R193 to R195)
  | staIzx (z : Byte)
  | staZp (z : Byte)
  | staAbs (a : Word)
  | staIzy (z : Byte)
  | staZpx (z : Byte)
  | staAby (a : Word)
  | staAbx (a : Word)
  | stxZp (z : Byte)
  | stxAbs (a : Word)
  | stxZpy (z : Byte)
  | styZp (z : Byte)
  | styAbs (a : Word)
  | styZpx (z : Byte)
  -- Register transfers (41, R196 to R201)
  | tax
  | tay
  | txa
  | tya
  | tsx
  | txs
  -- Add and subtract (42, R220, R221)
  | adcIzx (z : Byte)
  | adcZp (z : Byte)
  | adcImm (v : Byte)
  | adcAbs (a : Word)
  | adcIzy (z : Byte)
  | adcZpx (z : Byte)
  | adcAby (a : Word)
  | adcAbx (a : Word)
  | sbcIzx (z : Byte)
  | sbcZp (z : Byte)
  | sbcImm (v : Byte)
  | sbcAbs (a : Word)
  | sbcIzy (z : Byte)
  | sbcZpx (z : Byte)
  | sbcAby (a : Word)
  | sbcAbx (a : Word)
  -- Logic (42, R222 to R224)
  | andIzx (z : Byte)
  | andZp (z : Byte)
  | andImm (v : Byte)
  | andAbs (a : Word)
  | andIzy (z : Byte)
  | andZpx (z : Byte)
  | andAby (a : Word)
  | andAbx (a : Word)
  | oraIzx (z : Byte)
  | oraZp (z : Byte)
  | oraImm (v : Byte)
  | oraAbs (a : Word)
  | oraIzy (z : Byte)
  | oraZpx (z : Byte)
  | oraAby (a : Word)
  | oraAbx (a : Word)
  | eorIzx (z : Byte)
  | eorZp (z : Byte)
  | eorImm (v : Byte)
  | eorAbs (a : Word)
  | eorIzy (z : Byte)
  | eorZpx (z : Byte)
  | eorAby (a : Word)
  | eorAbx (a : Word)
  -- Compare and bit test (42, R225 to R228)
  | cmpIzx (z : Byte)
  | cmpZp (z : Byte)
  | cmpImm (v : Byte)
  | cmpAbs (a : Word)
  | cmpIzy (z : Byte)
  | cmpZpx (z : Byte)
  | cmpAby (a : Word)
  | cmpAbx (a : Word)
  | cpxImm (v : Byte)
  | cpxZp (z : Byte)
  | cpxAbs (a : Word)
  | cpyImm (v : Byte)
  | cpyZp (z : Byte)
  | cpyAbs (a : Word)
  | bitZp (z : Byte)
  | bitAbs (a : Word)
  -- Register increment and decrement (42, R231 to R234)
  | inx
  | iny
  | dex
  | dey
  -- Shifts, rotates, memory increment and decrement (43, R250 to R255)
  | aslZp (z : Byte)
  | aslAcc
  | aslAbs (a : Word)
  | aslZpx (z : Byte)
  | aslAbx (a : Word)
  | lsrZp (z : Byte)
  | lsrAcc
  | lsrAbs (a : Word)
  | lsrZpx (z : Byte)
  | lsrAbx (a : Word)
  | rolZp (z : Byte)
  | rolAcc
  | rolAbs (a : Word)
  | rolZpx (z : Byte)
  | rolAbx (a : Word)
  | rorZp (z : Byte)
  | rorAcc
  | rorAbs (a : Word)
  | rorZpx (z : Byte)
  | rorAbx (a : Word)
  | incZp (z : Byte)
  | incAbs (a : Word)
  | incZpx (z : Byte)
  | incAbx (a : Word)
  | decZp (z : Byte)
  | decAbs (a : Word)
  | decZpx (z : Byte)
  | decAbx (a : Word)
  -- Jumps, subroutines (44, R260 to R263)
  | jmpAbs (a : Word)
  | jmpInd (a : Word)
  | jsr (a : Word)
  | rts
  -- Conditional branches (44, R265 to R272)
  | bcc (d : Byte)
  | bcs (d : Byte)
  | beq (d : Byte)
  | bne (d : Byte)
  | bmi (d : Byte)
  | bpl (d : Byte)
  | bvc (d : Byte)
  | bvs (d : Byte)
  -- Stack (45, R280 to R283)
  | pha
  | php
  | pla
  | plp
  -- Flag set and clear, no operation (45, R284 to R291)
  | clc
  | sec
  | cli
  | sei
  | cld
  | sed
  | clv
  | nop
  -- Software interrupt and return (45, R292, R293)
  | brk
  | rti
  -- Illegal no-operation forms (46, R301)
  | nopZp04 (z : Byte)
  | nopAbs0C (a : Word)
  | nopZpx14 (z : Byte)
  | nopImp1A
  | nopAbx1C (a : Word)
  | nopZpx34 (z : Byte)
  | nopImp3A
  | nopAbx3C (a : Word)
  | nopZp44 (z : Byte)
  | nopZpx54 (z : Byte)
  | nopImp5A
  | nopAbx5C (a : Word)
  | nopZp64 (z : Byte)
  | nopZpx74 (z : Byte)
  | nopImp7A
  | nopAbx7C (a : Word)
  | nopImm80 (v : Byte)
  | nopImm82 (v : Byte)
  | nopImm89 (v : Byte)
  | nopImmC2 (v : Byte)
  | nopZpxD4 (z : Byte)
  | nopImpDA
  | nopAbxDC (a : Word)
  | nopImmE2 (v : Byte)
  | nopZpxF4 (z : Byte)
  | nopImpFA
  | nopAbxFC (a : Word)
  -- Stable illegal loads, stores and the duplicate SBC (46, R302 to R304)
  | laxIzx (z : Byte)
  | laxZp (z : Byte)
  | laxAbs (a : Word)
  | laxIzy (z : Byte)
  | laxZpy (z : Byte)
  | laxAby (a : Word)
  | saxIzx (z : Byte)
  | saxZp (z : Byte)
  | saxAbs (a : Word)
  | saxZpy (z : Byte)
  | sbcImmEB (v : Byte)
  -- Stable illegal read-modify-write forms (46, R305 to R310)
  | dcpIzx (z : Byte)
  | dcpZp (z : Byte)
  | dcpAbs (a : Word)
  | dcpIzy (z : Byte)
  | dcpZpx (z : Byte)
  | dcpAby (a : Word)
  | dcpAbx (a : Word)
  | isbIzx (z : Byte)
  | isbZp (z : Byte)
  | isbAbs (a : Word)
  | isbIzy (z : Byte)
  | isbZpx (z : Byte)
  | isbAby (a : Word)
  | isbAbx (a : Word)
  | sloIzx (z : Byte)
  | sloZp (z : Byte)
  | sloAbs (a : Word)
  | sloIzy (z : Byte)
  | sloZpx (z : Byte)
  | sloAby (a : Word)
  | sloAbx (a : Word)
  | rlaIzx (z : Byte)
  | rlaZp (z : Byte)
  | rlaAbs (a : Word)
  | rlaIzy (z : Byte)
  | rlaZpx (z : Byte)
  | rlaAby (a : Word)
  | rlaAbx (a : Word)
  | sreIzx (z : Byte)
  | sreZp (z : Byte)
  | sreAbs (a : Word)
  | sreIzy (z : Byte)
  | sreZpx (z : Byte)
  | sreAby (a : Word)
  | sreAbx (a : Word)
  | rraIzx (z : Byte)
  | rraZp (z : Byte)
  | rraAbs (a : Word)
  | rraIzy (z : Byte)
  | rraZpx (z : Byte)
  | rraAby (a : Word)
  | rraAbx (a : Word)
  -- Stable illegal immediates and LAS (46, R311 to R315)
  | ancImm0B (v : Byte)
  | ancImm2B (v : Byte)
  | alrImm (v : Byte)
  | arrImm (v : Byte)
  | axsImm (v : Byte)
  | lasAby (a : Word)
  -- Unstable opcodes (46, R316 to R321)
  | lxaImm (v : Byte)
  | xaaImm (v : Byte)
  | shaIzy (z : Byte)
  | shaAby (a : Word)
  | shxAby (a : Word)
  | shyAbx (a : Word)
  | tasAby (a : Word)
  -- Undispatchable opcodes (46, R322)
  | jam02
  | jam12
  | jam22
  | jam32
  | jam42
  | jam52
  | jam62
  | jam72
  | jam92
  | jamB2
  | jamD2
  | jamF2
  deriving DecidableEq, Repr

/-- The memory addressing modes with their operand (R132): what the effective address is computed from. -/
inductive MemMode where
  | zp (z : Byte)
  | zpx (z : Byte)
  | zpy (z : Byte)
  | abs (a : Word)
  | abx (a : Word)
  | aby (a : Word)
  | izx (z : Byte)
  | izy (z : Byte)
  deriving DecidableEq, Repr

/-- The operand of a read instruction (R174): an immediate byte, or a byte of memory. -/
inductive Operand where
  | imm (v : Byte)
  | mem (m : MemMode)
  deriving DecidableEq, Repr

end Sys2Proof
end

