-- ==== Sys2Proof/Machine/State.lean ====
section
/-! DEFINITION. The machine's state as plain data (spec file 10, R20 to R53), its faults, and the state at the first opcode fetch after power-on. -/

namespace Sys2Proof.Machine

/-! ### Memories -/

/-- A byte memory: the bytes that differ from `Memory.fill`, at strictly rising offsets (R32, R38, R521). -/
abbrev Memory := List Host.Cell

/-- What an offset a memory does not list reads as. DESIGN CHOICE, notes/assumptions/2.md. -/
abbrev Memory.fill : Byte := 0

/-- The framebuffer: a pixel is the pair (6-bit colour, emphasis bits 7:5 of `MASK`), as R419 allows; unlisted pixels are 0 (R42). -/
abbrev Pixels := List (Nat × BitVec 9)

/-! ### The CPU and the orchestrator -/

/-- The six stored bits of the status register `P` (R24): bit 4 (`B`) and bit 5 are no stored bits. -/
structure Flags where
  c : Bool
  z : Bool
  i : Bool
  d : Bool
  v : Bool
  n : Bool
  deriving DecidableEq, Repr

/-- The CPU registers (R20 to R24). `sp` is the stack pointer `S`. -/
structure Cpu where
  a : Byte
  x : Byte
  y : Byte
  sp : Byte
  pc : Word
  p : Flags
  deriving DecidableEq, Repr

/-- `CYC` (R26), `MCLK` and `PPUCLK` (R27). -/
structure Clocks where
  cyc : Nat
  mclk : Nat
  ppuClk : Nat
  deriving DecidableEq, Repr

/-- A Delayed Flag (R346). -/
structure DelayedFlag where
  pending : Bool
  active : Bool
  deriving DecidableEq, Repr

/-- The two Delayed Flags and the NMI line's level at the previous sample (R28). -/
structure IntUnit where
  nmi : DelayedFlag
  irq : DelayedFlag
  prevNmiLine : Bool
  deriving DecidableEq, Repr

/-- The DMA engine (R30). -/
structure Dma where
  haltReq : Bool
  spriteActive : Bool
  spritePage : Byte
  dmcActive : Bool
  dmcWait : Nat
  deriving DecidableEq, Repr

/-- The controller ports (R33, R371). -/
structure Pads where
  strobe : Bool
  buttons0 : Byte
  buttons1 : Byte
  shift0 : Byte
  shift1 : Byte
  deriving DecidableEq, Repr

/-- The backing byte buffers (R32, R38, R521, R548). -/
structure Buffers where
  /-- CPU work RAM, 2048 bytes -/
  ram : Memory
  /-- nametable RAM, 2048 bytes, or 4096 with four-screen mirroring -/
  vram : Memory
  /-- PRG ROM -/
  prg : Memory
  /-- CHR ROM or CHR RAM -/
  chr : Memory
  /-- PRG RAM, 8192 bytes -/
  prgRam : Memory
  deriving DecidableEq, Repr

/-! ### The PPU -/

/-- One sprite shift-register unit (R41). -/
structure SpriteUnit where
  patLo : Byte
  patHi : Byte
  attr : Byte
  x : Byte
  isZero : Bool
  deriving DecidableEq, Repr

/-- The picture processor (R34 to R43). -/
structure Ppu where
  /-- the next dot to execute (R34, R384) -/
  scanline : Nat
  dot : Nat
  frame : Nat
  /-- `V`, `T`, `X`, `W` (R35) -/
  v : BitVec 15
  t : BitVec 15
  fineX : BitVec 3
  w : Bool
  /-- `CTRL`, `MASK` (R36) -/
  ctrl : Byte
  mask : Byte
  /-- the status flags (R37) -/
  nmiOccurred : Bool
  spriteZeroHit : Bool
  spriteOverflow : Bool
  /-- the PPU's own memories (R38) -/
  oam : Memory
  oamAddr : Byte
  secOam : Memory
  palette : Memory
  /-- the port-side latches (R39) -/
  readBuffer : Byte
  ioLatch : Byte
  /-- the background pipeline (R40) -/
  ntByte : Byte
  atByte : Byte
  patLo : Byte
  patHi : Byte
  bgShiftLo : BitVec 16
  bgShiftHi : BitVec 16
  atShiftLo : BitVec 16
  atShiftHi : BitVec 16
  /-- the eight sprite units and the counts (R41) -/
  sprites : List SpriteUnit
  sprCount : Nat
  sprNextCount : Nat
  sprNextHasZero : Bool
  /-- the framebuffer (R42) -/
  pixels : Pixels
  /-- the muted vertical blank (R43) -/
  suppressVbl : Bool
  deriving DecidableEq, Repr

/-! ### The APU -/

/-- A length counter with its halt flag and the channel's enable (R44 to R46, R454). -/
structure LengthCounter where
  value : Byte
  halt : Bool
  enabled : Bool
  deriving DecidableEq, Repr

/-- An envelope (R44, R454). -/
structure Envelope where
  start : Bool
  constant : Bool
  period : BitVec 4
  divider : BitVec 4
  decay : BitVec 4
  deriving DecidableEq, Repr

/-- The sweep unit of a square generator (R44, R456). -/
structure Sweep where
  enabled : Bool
  negate : Bool
  reload : Bool
  period : BitVec 3
  shift : BitVec 3
  divider : BitVec 3
  deriving DecidableEq, Repr

/-- A square generator (R44). -/
structure Square where
  duty : BitVec 2
  dutyPos : BitVec 3
  timerPeriod : BitVec 11
  timer : BitVec 11
  len : LengthCounter
  env : Envelope
  sweep : Sweep
  deriving DecidableEq, Repr

/-- The triangle generator (R45). -/
structure Triangle where
  timerPeriod : BitVec 11
  timer : BitVec 11
  seqPos : BitVec 5
  len : LengthCounter
  linearReloadValue : BitVec 7
  linearCounter : BitVec 7
  linearReload : Bool
  deriving DecidableEq, Repr

/-- The noise generator (R46). -/
structure Noise where
  modeFlag : Bool
  periodIndex : BitVec 4
  timer : BitVec 12
  lfsr : BitVec 15
  len : LengthCounter
  env : Envelope
  deriving DecidableEq, Repr

/-- The sample-playback generator (R47). -/
structure Dmc where
  irqEnabled : Bool
  loop : Bool
  rateIndex : BitVec 4
  timer : BitVec 9
  outputLevel : BitVec 7
  sampleAddrReg : Byte
  sampleLenReg : Byte
  curAddr : Word
  bytesRemaining : BitVec 12
  sampleBuffer : Byte
  bufferFull : Bool
  shiftReg : Byte
  bitsRemaining : BitVec 4
  silence : Bool
  irqFlag : Bool
  deriving DecidableEq, Repr

/-- The frame sequencer (R48). -/
structure FrameSeq where
  mode : Bool
  irqInhibit : Bool
  step : Nat
  cycle : Nat
  pendingValue : Byte
  pendingDelay : Nat
  irqFlag : Bool
  deriving DecidableEq, Repr

/-- The audio output path (R49): accumulators, the count of accumulated cycles, the remainder bucket, the filter's previous input and output.
`samples` is the model's own count of the calls of `sampleCallback` (R474); the last sample delivered is `prevOut`. -/
structure AudioOut where
  accSq1 : Nat
  accSq2 : Nat
  accTri : Nat
  accNoise : Nat
  accDmc : Nat
  accCount : Nat
  bucket : Rat
  prevIn : Rat
  prevOut : Rat
  samples : Nat
  deriving DecidableEq, Repr

/-- The audio processor (R44 to R49). -/
structure Apu where
  sq1 : Square
  sq2 : Square
  tri : Triangle
  noise : Noise
  dmc : Dmc
  seq : FrameSeq
  out : AudioOut
  deriving DecidableEq, Repr

/-! ### The cartridge and the memory spaces -/

/-- The names of the backing buffers (R60, R521). -/
inductive BufId where
  | ram
  | vram
  | prg
  | chr
  | prgRam
  deriving DecidableEq, Repr

/-- What a mapped bank names: a buffer, a byte offset into it, and whether writes go through (R60, R63, D16). -/
structure Bank where
  buf : BufId
  off : Nat
  writable : Bool
  deriving DecidableEq, Repr

/-- A memory space: one entry per 1 KiB bank; `none` is an unmapped bank (R60). -/
abbrev Space := List (Option Bank)

/-- The nametable mirroring modes (R77). -/
inductive Mirroring where
  | horizontal
  | vertical
  | singleA
  | singleB
  | fourScreen
  deriving DecidableEq, Repr

/-- The registers of MMC1 (R531). -/
structure Mmc1 where
  shiftReg : BitVec 5
  shiftCount : Nat
  control : BitVec 5
  chr0 : BitVec 5
  chr1 : BitVec 5
  prg : BitVec 5
  lastWriteCyc : Nat
  deriving DecidableEq, Repr

/-- The registers of MMC3 (R535, R540). -/
structure Mmc3 where
  bankSelect : Byte
  /-- `R[0..7]` -/
  regs : List Byte
  mirror : Bool
  ramProtect : Byte
  irqLatch : Byte
  irqCounter : Byte
  irqReload : Bool
  irqEnabled : Bool
  irqFlag : Bool
  a12 : Bool
  a12LowSince : Nat
  deriving DecidableEq, Repr

/-- The supported mappers with their registers (R520, R528). -/
inductive Mapper where
  /-- mapper 0 (R530) -/
  | nrom
  /-- mapper 1 (R531) -/
  | mmc1 (r : Mmc1)
  /-- mapper 2 (R532) -/
  | uxrom (bank : Byte)
  /-- mapper 3 (R533) -/
  | cnrom (bank : Byte)
  /-- mapper 4 (R535, R540) -/
  | mmc3 (r : Mmc3)
  /-- mapper 7 (R534) -/
  | axrom (reg : Byte)
  deriving DecidableEq, Repr

/-- The cartridge (R50, R521, R529) with the two memory spaces it maps (R51). -/
structure Cart where
  mapper : Mapper
  /-- header byte 4: PRG ROM size in 16 KiB units -/
  prgUnits : Nat
  /-- header byte 5: CHR ROM size in 8 KiB units; 0 means 8 KiB of CHR RAM -/
  chrUnits : Nat
  /-- header byte 6 bits 0, 3 and 1 -/
  headerVertical : Bool
  headerFourScreen : Bool
  battery : Bool
  /-- the image's 512-byte trainer, or nothing: power-on copies it into PRG RAM, and `reboot()` does again (R529, R563) -/
  trainer : List Byte
  /-- the mirroring-mode selector (R50, R77) -/
  mirroring : Mirroring
  /-- `CPUSPACE`, 64 banks (R51) -/
  cpuSpace : Space
  /-- `PPUSPACE`, 16 banks (R51) -/
  ppuSpace : Space
  deriving DecidableEq, Repr

/-! ### Faults and refusals -/

/-- A fault record: the value of `FAULT`, and the reason with which `step` stops on a faulted machine (R31, R341; safe: the spec stops there too). -/
inductive Fault where
  /-- Recorded by the twelve `JAM` instructions (R322, R344). Safe: the spec's own stop. -/
  | undispatchableOpcode (opcode : Byte) (address : Word)
  /-- Answered by `initMachine` for a malformed image or an unsupported mapper (R342, R528, R529). A mapper register write records it if its remapping violates the precondition of `map` (R61), which on a cartridge of legal size none does (R527). Safe: the spec's own stop. -/
  | configError
  /-- `BankOutOfRange` (R343). No operation records it: CPU addresses are 16 bits and PPU addresses 14 bits by type, as R343 allows; only a restored `FAULT` value can hold it. Safe. -/
  | bankOutOfRange (address : Nat)
  deriving DecidableEq, Repr

/-- Why the model has no next state for an instruction. -/
inductive Refusal where
  /-- Raised by a refused arm of `exec` only: the instruction has no meaning yet. Safe: the model stops. No arm is refused in this model. -/
  | notModelled (mnemonic : String)
  deriving DecidableEq, Repr

/-! ### The whole machine -/

/-- The state of the machine (spec file 10). -/
structure State where
  /-- `A`, `X`, `Y`, `S`, `PC`, `P` (R20 to R24) -/
  cpu : Cpu
  /-- `CYC`, `MCLK`, `PPUCLK` (R26, R27) -/
  clk : Clocks
  /-- the Delayed Flags (R28) -/
  int : IntUnit
  /-- the CPU data-bus latch `DBUS` (R29) -/
  dbus : Byte
  /-- the DMA engine (R30) -/
  dma : Dma
  /-- `FAULT` (R31) -/
  fault : Option Fault
  /-- the controller ports (R33) -/
  pads : Pads
  /-- the PPU (R34 to R43) -/
  ppu : Ppu
  /-- the APU (R44 to R49) -/
  apu : Apu
  /-- the cartridge and the memory spaces (R50, R51) -/
  cart : Cart
  /-- every backing buffer (R32, R38, R521) -/
  mem : Buffers
  /-- the launch parameters (R9); no instruction changes them -/
  cfg : Config
  /-- the model's own counter of free values drawn; no claim may rest on its value -/
  draws : Nat
  deriving DecidableEq, Repr

/-! ### Power-on values (R53) and the state at the first opcode fetch (R560, R565) -/

/-- A run of `n` banks over buffer `b` from offset `off` on. -/
def bankRun (b : BufId) (w : Bool) (off : Nat) : Nat → Space
  | 0 => []
  | n + 1 => some ⟨b, off, w⟩ :: bankRun b w (off + 1024) n

/-- `CPUSPACE` as NROM with one 16 KiB PRG bank maps it: work RAM four times, PRG RAM, PRG twice (R66, R530, R548). -/
def resetCpuSpace : Space :=
  bankRun .ram true 0 2 ++ bankRun .ram true 0 2 ++ bankRun .ram true 0 2 ++ bankRun .ram true 0 2
    ++ List.replicate 16 none ++ bankRun .prgRam true 0 8 ++ bankRun .prg false 0 16 ++ bankRun .prg false 0 16

/-- `PPUSPACE` as NROM with 8 KiB of CHR RAM and horizontal mirroring maps it (R77, R530). -/
def resetPpuSpace : Space :=
  bankRun .chr true 0 8 ++ bankRun .vram true 0 1 ++ bankRun .vram true 0 1 ++ bankRun .vram true 1024 1 ++ bankRun .vram true 1024 1
    ++ bankRun .vram true 0 1 ++ bankRun .vram true 0 1 ++ bankRun .vram true 1024 1 ++ bankRun .vram true 1024 1

/-- The cartridge of `State.reset`: the baseline mapper NROM (R9) with blank PRG ROM. DESIGN CHOICE, notes/assumptions/4.md. -/
def Cart.blank : Cart :=
  { mapper := .nrom, prgUnits := 1, chrUnits := 0, headerVertical := false, headerFourScreen := false, battery := false,
    trainer := [], mirroring := .horizontal, cpuSpace := resetCpuSpace, ppuSpace := resetPpuSpace }

/-- Buffers of which every byte reads as `Memory.fill` (R32, R38: unspecified at power-on). -/
def Buffers.blank : Buffers := { ram := [], vram := [], prg := [], chr := [], prgRam := [] }

/-- The flags of `P = $24` (R24). -/
def Flags.powerOn : Flags := { c := false, z := false, i := true, d := false, v := false, n := false }

/-- The DMA engine at power-on and at a warm reset: all false / 0 (R30, R53). -/
def Dma.powerOn : Dma := { haltReq := false, spriteActive := false, spritePage := 0, dmcActive := false, dmcWait := 0 }

/-- A sprite unit at power-on (R41). -/
def SpriteUnit.zero : SpriteUnit := { patLo := 0, patHi := 0, attr := 0, x := 0, isZero := false }

/-- Secondary OAM, all `$FF`: its power-on value and its value after the clear at dot 1 (R38, R410). -/
def clearedSecOam : Memory := (List.range 32).map fun k => (k, (0xFF : Byte))

/-- The PPU at power-on (R34 to R43). -/
def Ppu.powerOn : Ppu :=
  { scanline := 0, dot := 0, frame := 0, v := 0, t := 0, fineX := 0, w := false, ctrl := 0, mask := 0,
    nmiOccurred := false, spriteZeroHit := false, spriteOverflow := false,
    oam := [], oamAddr := 0, secOam := clearedSecOam, palette := [], readBuffer := 0, ioLatch := 0,
    ntByte := 0, atByte := 0, patLo := 0, patHi := 0, bgShiftLo := 0, bgShiftHi := 0, atShiftLo := 0, atShiftHi := 0,
    sprites := List.replicate 8 SpriteUnit.zero, sprCount := 0, sprNextCount := 0, sprNextHasZero := false,
    pixels := [], suppressVbl := false }

/-- A length counter at power-on (R44 to R46). -/
def LengthCounter.powerOn : LengthCounter := { value := 0, halt := false, enabled := false }

/-- An envelope at power-on (R44, R46). -/
def Envelope.powerOn : Envelope := { start := false, constant := false, period := 0, divider := 0, decay := 0 }

/-- A sweep unit at power-on (R44). -/
def Sweep.powerOn : Sweep := { enabled := false, negate := false, reload := false, period := 0, shift := 0, divider := 0 }

/-- A square generator at power-on (R44). -/
def Square.powerOn : Square :=
  { duty := 0, dutyPos := 0, timerPeriod := 0, timer := 0, len := .powerOn, env := .powerOn, sweep := .powerOn }

/-- The APU at power-on (R44 to R49): all 0, but `lfsr = 1`, `bitsRemaining = 8`, `silence`. -/
def Apu.powerOn : Apu :=
  { sq1 := .powerOn, sq2 := .powerOn,
    tri := { timerPeriod := 0, timer := 0, seqPos := 0, len := .powerOn, linearReloadValue := 0, linearCounter := 0, linearReload := false },
    noise := { modeFlag := false, periodIndex := 0, timer := 0, lfsr := 1, len := .powerOn, env := .powerOn },
    dmc := { irqEnabled := false, loop := false, rateIndex := 0, timer := 0, outputLevel := 0, sampleAddrReg := 0, sampleLenReg := 0,
             curAddr := 0, bytesRemaining := 0, sampleBuffer := 0, bufferFull := false, shiftReg := 0, bitsRemaining := 8,
             silence := true, irqFlag := false },
    seq := { mode := false, irqInhibit := false, step := 0, cycle := 0, pendingValue := 0, pendingDelay := 0, irqFlag := false },
    out := { accSq1 := 0, accSq2 := 0, accTri := 0, accNoise := 0, accDmc := 0, accCount := 0, bucket := 0, prevIn := 0, prevOut := 0, samples := 0 } }

/-- The machine right after the power-on reset sequence, at the first opcode fetch (R560, R561, R565), with the suggested launch parameters, every unspecified memory blank and the blank NROM cartridge (notes/assumptions/1.md to 4.md).
The seven cycles of the sequence have run: 20 dots, 7 APU cycles.
`Laws/Reset.lean` proves that this is what the power-on procedure leaves. -/
def State.reset : State :=
  { cpu := { a := 0, x := 0, y := 0, sp := 0xFD, pc := 0x0000, p := .powerOn },
    clk := { cyc := 7, mclk := 84, ppuClk := 80 },
    int := { nmi := ⟨false, false⟩, irq := ⟨false, false⟩, prevNmiLine := false },
    dbus := 0,
    dma := .powerOn,
    fault := none,
    pads := { strobe := false, buttons0 := 0, buttons1 := 0, shift0 := 0, shift1 := 0 },
    ppu := { Ppu.powerOn with dot := 20 },
    apu := { Apu.powerOn with
      sq1 := { Square.powerOn with dutyPos := 3 }, sq2 := { Square.powerOn with dutyPos := 3 },
      noise := { Apu.powerOn.noise with timer := 1, lfsr := 0x2000 },
      dmc := { Apu.powerOn.dmc with timer := 421, bitsRemaining := 7 },
      seq := { Apu.powerOn.seq with cycle := 7 },
      out := { Apu.powerOn.out with accTri := 105, accCount := 7, bucket := 7 } },
    cart := .blank, mem := .blank, cfg := .suggested, draws := 0 }

end Sys2Proof.Machine
end

