-- ==== Sys2Proof/Machine/Flags.lean ====
section
/-! DEFINITION. The status register as a byte, every flag computation, and the register effects of the instructions as functions of the operand byte (spec files 10, 40 to 46). -/

namespace Sys2Proof.Machine

/-! ### `P` as a byte (R24) -/

/-- `P` as a byte with bit 5 set and bit 4 equal to `b`: `(P & $CF) | $20` for `false`, `P | $30` for `true` (R281, R292, R352). -/
def Flags.toByte (b : Bool) (p : Flags) : Byte :=
  bitAt 0 p.c ||| bitAt 1 p.z ||| bitAt 2 p.i ||| bitAt 3 p.d ||| bitAt 4 b ||| 0x20 ||| bitAt 6 p.v ||| bitAt 7 p.n

/-- `P <- (v & $CF) | $20`: bits 4 and 5 of the byte are ignored (R283, R293). -/
def Flags.ofByte (v : Byte) : Flags :=
  { c := v.getLsbD 0, z := v.getLsbD 1, i := v.getLsbD 2, d := v.getLsbD 3, v := v.getLsbD 6, n := v.getLsbD 7 }

/-- `setZN(v)` (R177). -/
def Flags.setZN (v : Byte) (p : Flags) : Flags := { p with z := decide (v = 0), n := v.getLsbD 7 }

/-! ### Arithmetic (R220, R221, R225) -/

/-- `A + M + P.C` as a number, 0 to 511 (R220). -/
def carrySum (a m : Byte) (c : Bool) : Nat := a.toNat + m.toNat + c.toNat

/-- The accumulator after `ADC` with operand `m` (R220); `D` changes nothing (R237). -/
def adcValue (a m : Byte) (p : Flags) : Byte := BitVec.ofNat 8 (carrySum a m p.c)

/-- The flags after `ADC` with operand `m` (R220). -/
def adcFlags (a m : Byte) (p : Flags) : Flags :=
  Flags.setZN (adcValue a m p)
    { p with c := decide (255 < carrySum a m p.c), v := decide (~~~(a ^^^ m) &&& (a ^^^ adcValue a m p) &&& 0x80 ≠ 0) }

/-- `A` and `P` after an addition with carry (R220). -/
def Cpu.adc (m : Byte) (c : Cpu) : Cpu := { c with a := adcValue c.a m c.p, p := adcFlags c.a m c.p }

/-- `A` and `P` after a subtraction with borrow: `ADC` of the one's complement (R221). -/
def Cpu.sbc (m : Byte) (c : Cpu) : Cpu := c.adc (m ^^^ 0xFF)

/-- The flags of an unsigned comparison of `r` with `m` (R225). -/
def compareFlags (r m : Byte) (p : Flags) : Flags := Flags.setZN (r - m) { p with c := decide (m.toNat ≤ r.toNat) }

/-- `CMP` (R225). -/
def Cpu.cmp (m : Byte) (c : Cpu) : Cpu := { c with p := compareFlags c.a m c.p }

/-- `CPX` (R226). -/
def Cpu.cpx (m : Byte) (c : Cpu) : Cpu := { c with p := compareFlags c.x m c.p }

/-- `CPY` (R227). -/
def Cpu.cpy (m : Byte) (c : Cpu) : Cpu := { c with p := compareFlags c.y m c.p }

/-! ### Loads and logic (R190 to R192, R222 to R224, R228) -/

/-- `A <- v; setZN(A)`. -/
def Cpu.lda (v : Byte) (c : Cpu) : Cpu := { c with a := v, p := c.p.setZN v }

/-- `X <- v; setZN(X)`. -/
def Cpu.ldx (v : Byte) (c : Cpu) : Cpu := { c with x := v, p := c.p.setZN v }

/-- `Y <- v; setZN(Y)`. -/
def Cpu.ldy (v : Byte) (c : Cpu) : Cpu := { c with y := v, p := c.p.setZN v }

/-- `AND` (R222). -/
def Cpu.and (m : Byte) (c : Cpu) : Cpu := c.lda (c.a &&& m)

/-- `ORA` (R223). -/
def Cpu.ora (m : Byte) (c : Cpu) : Cpu := c.lda (c.a ||| m)

/-- `EOR` (R224). -/
def Cpu.eor (m : Byte) (c : Cpu) : Cpu := c.lda (c.a ^^^ m)

/-- `BIT` (R228). -/
def Cpu.bit (m : Byte) (c : Cpu) : Cpu :=
  { c with p := { c.p with z := decide (c.a &&& m = 0), n := m.getLsbD 7, v := m.getLsbD 6 } }

/-- An operand that is read and discarded (R301). -/
def Cpu.discard (_m : Byte) (c : Cpu) : Cpu := c

/-! ### Shifts, rotates, increments: the functions `f` of R250 to R255 -/

/-- `f` of `ASL` (R250). -/
def aslFn (v : Byte) (p : Flags) : Byte × Flags := (v <<< 1, { p with c := v.getLsbD 7 })

/-- `f` of `LSR` (R251). -/
def lsrFn (v : Byte) (p : Flags) : Byte × Flags := (v >>> 1, { p with c := v.getLsbD 0 })

/-- `f` of `ROL` (R252). -/
def rolFn (v : Byte) (p : Flags) : Byte × Flags := (v <<< 1 ||| bitAt 0 p.c, { p with c := v.getLsbD 7 })

/-- `f` of `ROR` (R253). -/
def rorFn (v : Byte) (p : Flags) : Byte × Flags := (v >>> 1 ||| bitAt 7 p.c, { p with c := v.getLsbD 0 })

/-- `f` of `INC` (R254). -/
def incFn (v : Byte) (p : Flags) : Byte × Flags := (v + 1, p)

/-- `f` of `DEC` (R255). -/
def decFn (v : Byte) (p : Flags) : Byte × Flags := (v - 1, p)

/-- The accumulator form of a shift: `A <- f(A); setZN(A)` (R250 to R253). -/
def Cpu.shiftA (f : Byte → Flags → Byte × Flags) (c : Cpu) : Cpu :=
  { c with a := (f c.a c.p).1, p := (f c.a c.p).2.setZN (f c.a c.p).1 }

/-- What a plain read-modify-write instruction does with its result: `setZN(r)`. -/
def Cpu.result (r : Byte) (c : Cpu) : Cpu := { c with p := c.p.setZN r }

/-! ### Stable illegal immediates and `LAX`, `LAS` (R302, R311 to R315) -/

/-- `LAX` (R302). -/
def Cpu.lax (m : Byte) (c : Cpu) : Cpu := { c with a := m, x := m, p := c.p.setZN m }

/-- `ANC` (R311). -/
def Cpu.anc (m : Byte) (c : Cpu) : Cpu :=
  { c with a := c.a &&& m, p := { c.p.setZN (c.a &&& m) with c := (c.a &&& m).getLsbD 7 } }

/-- `ALR` (R312). -/
def Cpu.alr (m : Byte) (c : Cpu) : Cpu :=
  { c with a := (c.a &&& m) >>> 1, p := Flags.setZN ((c.a &&& m) >>> 1) { c.p with c := (c.a &&& m).getLsbD 0 } }

/-- The accumulator after `ARR` (R313). -/
def arrValue (a m : Byte) (carry : Bool) : Byte := (a &&& m) >>> 1 ||| bitAt 7 carry

/-- `ARR` (R313). -/
def Cpu.arr (m : Byte) (c : Cpu) : Cpu :=
  let r := arrValue c.a m c.p.c
  { c with a := r, p := { c.p.setZN r with c := r.getLsbD 6, v := r.getLsbD 6 ^^ r.getLsbD 5 } }

/-- `AXS` (R314). -/
def Cpu.axs (m : Byte) (c : Cpu) : Cpu :=
  { c with x := (c.a &&& c.x) - m, p := compareFlags (c.a &&& c.x) m c.p }

/-- `LAS` (R315). -/
def Cpu.las (m : Byte) (c : Cpu) : Cpu :=
  { c with a := m &&& c.sp, x := m &&& c.sp, sp := m &&& c.sp, p := c.p.setZN (m &&& c.sp) }

/-! ### Implied instructions as functions of the registers (R196 to R201, R231 to R234, R284 to R291) -/

/-- `TAX` (R196). -/
def Cpu.tax (c : Cpu) : Cpu := c.ldx c.a

/-- `TAY` (R197). -/
def Cpu.tay (c : Cpu) : Cpu := c.ldy c.a

/-- `TXA` (R198). -/
def Cpu.txa (c : Cpu) : Cpu := c.lda c.x

/-- `TYA` (R199). -/
def Cpu.tya (c : Cpu) : Cpu := c.lda c.y

/-- `TSX` (R200). -/
def Cpu.tsx (c : Cpu) : Cpu := c.ldx c.sp

/-- `TXS` (R201): no flag changes. -/
def Cpu.txs (c : Cpu) : Cpu := { c with sp := c.x }

/-- `INX` (R231). -/
def Cpu.inx (c : Cpu) : Cpu := c.ldx (c.x + 1)

/-- `INY` (R232). -/
def Cpu.iny (c : Cpu) : Cpu := c.ldy (c.y + 1)

/-- `DEX` (R233). -/
def Cpu.dex (c : Cpu) : Cpu := c.ldx (c.x - 1)

/-- `DEY` (R234). -/
def Cpu.dey (c : Cpu) : Cpu := c.ldy (c.y - 1)

/-- `CLC` (R284). -/
def Cpu.clc (c : Cpu) : Cpu := { c with p := { c.p with c := false } }

/-- `SEC` (R285). -/
def Cpu.sec (c : Cpu) : Cpu := { c with p := { c.p with c := true } }

/-- `CLI` (R286). -/
def Cpu.cli (c : Cpu) : Cpu := { c with p := { c.p with i := false } }

/-- `SEI` (R287). -/
def Cpu.sei (c : Cpu) : Cpu := { c with p := { c.p with i := true } }

/-- `CLD` (R288). -/
def Cpu.cld (c : Cpu) : Cpu := { c with p := { c.p with d := false } }

/-- `SED` (R289). -/
def Cpu.sed (c : Cpu) : Cpu := { c with p := { c.p with d := true } }

/-- `CLV` (R290). -/
def Cpu.clv (c : Cpu) : Cpu := { c with p := { c.p with v := false } }

/-- `NOP` (R291, R301): no register and no flag changes. -/
def Cpu.nop (c : Cpu) : Cpu := c

end Sys2Proof.Machine
end

