-- ==== Sys2Proof/Machine/Memory.lean ====
section
/-! DEFINITION. Sparse memories in one canonical form: strictly rising offsets, no entry equal to what an unlisted offset reads as. -/

namespace Sys2Proof.Machine

/-- Read offset `a` of a list of cells whose unlisted offsets read as `fill`. -/
def cellsRead {α : Type} (fill : α) : List (Nat × α) → Nat → α
  | [], _ => fill
  | (k, v) :: rest, a => if a = k then v else if a < k then fill else cellsRead fill rest a

/-- Write offset `a`, keeping the canonical form: writing `fill` removes the entry. -/
def cellsWrite {α : Type} [DecidableEq α] (fill : α) : List (Nat × α) → Nat → α → List (Nat × α)
  | [], a, v => if v = fill then [] else [(a, v)]
  | (k, w) :: rest, a, v =>
    if a < k then (if v = fill then (k, w) :: rest else (a, v) :: (k, w) :: rest)
    else if a = k then (if v = fill then rest else (k, v) :: rest)
    else (k, w) :: cellsWrite fill rest a v

/-- The canonical form of the cells at offsets from `low` on. -/
def cellsWf {α : Type} [DecidableEq α] (fill : α) : Nat → List (Nat × α) → Bool
  | _, [] => true
  | low, (k, v) :: rest => decide (low ≤ k) && decide (v ≠ fill) && cellsWf fill (k + 1) rest

/-- The byte at offset `a`. -/
def Memory.read (m : Memory) (a : Nat) : Byte := cellsRead Memory.fill m a

/-- `m` with byte `v` at offset `a`. -/
def Memory.write (m : Memory) (a : Nat) (v : Byte) : Memory := cellsWrite Memory.fill m a v

/-- The canonical form holds. -/
def Memory.wf (m : Memory) : Bool := cellsWf Memory.fill 0 m

/-- `m` with `bytes` written from offset `a` on. -/
def Memory.load (m : Memory) : Nat → List Byte → Memory
  | _, [] => m
  | a, b :: rest => Memory.load (m.write a b) (a + 1) rest

/-- The pixel at index `256 * y + x`. -/
def Pixels.read (m : Pixels) (a : Nat) : BitVec 9 := cellsRead 0 m a

/-- Write one pixel. -/
def Pixels.write (m : Pixels) (a : Nat) (v : BitVec 9) : Pixels := cellsWrite 0 m a v

/-- The canonical form of the framebuffer. -/
def Pixels.wf (m : Pixels) : Bool := cellsWf (0 : BitVec 9) 0 m

/-- The buffer of a name (R60). -/
def Buffers.get (m : Buffers) : BufId → Memory
  | .ram => m.ram
  | .vram => m.vram
  | .prg => m.prg
  | .chr => m.chr
  | .prgRam => m.prgRam

/-- Replace the buffer of a name. -/
def Buffers.set (m : Buffers) : BufId → Memory → Buffers
  | .ram, v => { m with ram := v }
  | .vram, v => { m with vram := v }
  | .prg, v => { m with prg := v }
  | .chr, v => { m with chr := v }
  | .prgRam, v => { m with prgRam := v }

/-- Every backing buffer is in canonical form. -/
def Buffers.wf (m : Buffers) : Bool := m.ram.wf && m.vram.wf && m.prg.wf && m.chr.wf && m.prgRam.wf

/-- Every memory of the PPU is in canonical form. -/
def Ppu.memWf (p : Ppu) : Bool := p.oam.wf && p.secOam.wf && p.palette.wf && Pixels.wf p.pixels

/-! ### Banked memory spaces (R60 to R65) -/

/-- The bank an address of a space falls in (R62); an entry the table does not hold is unmapped. -/
def Space.bank (sp : Space) (a : Nat) : Option Bank := sp.getD (a / 1024) none

/-- `read` of a space (R62): the mapped byte, or nothing if the bank is unmapped (the caller supplies the open-bus value). -/
def Space.read (sp : Space) (m : Buffers) (a : Nat) : Option Byte :=
  match sp.bank a with
  | some b => some ((m.get b.buf).read (b.off + a % 1024))
  | none => none

/-- `write` of a space (R63): through a mapped bank of a writable buffer; otherwise nothing happens. -/
def Space.write (sp : Space) (m : Buffers) (a : Nat) (v : Byte) : Buffers :=
  match sp.bank a with
  | some b => if b.writable then m.set b.buf ((m.get b.buf).write (b.off + a % 1024) v) else m
  | none => m

/-- One call `map(buffer, target, start, start + len)` (R61). -/
structure MapCall where
  buf : BufId
  writable : Bool
  target : Nat
  start : Nat
  len : Nat
  deriving DecidableEq, Repr

/-- The precondition of `map` on a space of `size` bytes and a buffer of `bufLen` bytes (R61, D16). -/
def MapCall.ok (size bufLen : Nat) (c : MapCall) : Bool :=
  decide (c.len % 1024 = 0) && decide (c.target % 1024 = 0) && decide (c.start % 1024 = 0)
    && decide (c.start + c.len ≤ bufLen) && decide (c.target + c.len ≤ size)

/-- The entry of bank `k` after a `map` call (R61). -/
def MapCall.entry (c : MapCall) (k : Nat) (old : Option Bank) : Option Bank :=
  if c.target ≤ 1024 * k ∧ 1024 * k < c.target + c.len then some ⟨c.buf, c.start + (1024 * k - c.target), c.writable⟩ else old

/-- The table from bank `k` on after a `map` call (R61). -/
def Space.mapFrom (c : MapCall) : Nat → Space → Space
  | _, [] => []
  | k, b :: rest => c.entry k b :: Space.mapFrom c (k + 1) rest

/-- `map` (R61): `none` if the precondition is violated. -/
def Space.map? (size bufLen : Nat) (c : MapCall) (sp : Space) : Option Space :=
  if c.ok size bufLen then some (Space.mapFrom c 0 sp) else none

/-- The table from bank `k` on after `unmap(target, len)` (R61). -/
def Space.unmapFrom (target len : Nat) : Nat → Space → Space
  | _, [] => []
  | k, b :: rest => (if target ≤ 1024 * k ∧ 1024 * k < target + len then none else b) :: Space.unmapFrom target len (k + 1) rest

/-- The precondition of `unmap(target, len)` on a space of `size` bytes: whole banks inside the space, as `map` asks of its target (R61, D16). DEDUCED, notes/assumptions/6.md. -/
def unmapOk (size target len : Nat) : Bool :=
  decide (len % 1024 = 0) && decide (target % 1024 = 0) && decide (target + len ≤ size)

/-- `unmap(target, len)` (R61): the banks of the range become unmapped; `none` if the precondition is violated. -/
def Space.unmap? (size target len : Nat) (sp : Space) : Option Space :=
  if unmapOk size target len then some (sp.unmapFrom target len 0) else none

/-- A table of `banks` unmapped banks, which a remapping starts from (R61). -/
def Space.unmapped (banks : Nat) : Space := List.replicate banks none

end Sys2Proof.Machine
end

