-- ==== Sys2Proof/Machine/Cartridge.lean ====
section
/-! DEFINITION. The cartridge mapper: buffer sizes, the pure mapping function `Remap`, the register writes, the address-line watch and its scanline interrupt (spec file 63). -/

namespace Sys2Proof.Machine

/-- `PRG_RAM_BYTES` (R548). -/
def prgRamBytes : Nat := 8192

/-- `A12_FILTER_DOTS` (R545). -/
def a12FilterDots : Nat := 10

/-! ### Buffers (R521) -/

/-- Bytes in `PRG`. -/
def Cart.prgLen (c : Cart) : Nat := 16384 * c.prgUnits

/-- The cartridge has CHR RAM in place of CHR ROM. -/
def Cart.chrIsRam (c : Cart) : Bool := decide (c.chrUnits = 0)

/-- Bytes in `CHR`. -/
def Cart.chrLen (c : Cart) : Nat := if c.chrIsRam then 8192 else 8192 * c.chrUnits

/-- Bytes in `VRAM`: 2 KiB, or 4 KiB with four-screen mirroring. -/
def Cart.vramLen (c : Cart) : Nat := if c.headerFourScreen then 4096 else 2048

/-- Bytes in a buffer (R32, R521, R548). -/
def Cart.bufLen (c : Cart) : BufId → Nat
  | .ram => 2048
  | .vram => c.vramLen
  | .prg => c.prgLen
  | .chr => c.chrLen
  | .prgRam => prgRamBytes

/-! ### Windows (R527 and the notation of spec file 63, part 2) -/

/-- A window of `unit` bytes of `PRG` at `target`: bank `k` reduced modulo the number of such banks present. -/
def Cart.prgWindow (c : Cart) (unit target k : Nat) : MapCall :=
  { buf := .prg, writable := false, target := target, start := k % (c.prgLen / unit) * unit, len := unit }

/-- A window of `unit` bytes of `CHR` at `target`. -/
def Cart.chrWindow (c : Cart) (unit target k : Nat) : MapCall :=
  { buf := .chr, writable := c.chrIsRam, target := target, start := k % (c.chrLen / unit) * unit, len := unit }

/-- The number of the last bank of `unit` bytes of `PRG`. -/
def Cart.lastPrg (c : Cart) (unit : Nat) : Nat := c.prgLen / unit - 1

/-- `prg16(k)` at `target`. -/
def Cart.prg16 (c : Cart) (target k : Nat) : MapCall := c.prgWindow 16384 target k

/-- `prg8(k)` at `target`. -/
def Cart.prg8 (c : Cart) (target k : Nat) : MapCall := c.prgWindow 8192 target k

/-- `$8000` ← `prg32(k)`. A PRG ROM of one 16 KiB unit, which has no bank of 32 KiB, is shown in both halves of the window.
DESIGN CHOICE for that one case, notes/assumptions/6.md: R527 lets no `map` call of `Remap()` fail and does not say what the window shows. -/
def Cart.prg32 (c : Cart) (k : Nat) : List MapCall :=
  if c.prgLen < 32768 then [c.prg16 0x8000 0, c.prg16 0xC000 0] else [c.prgWindow 32768 0x8000 k]

/-- The page of `VRAM` that nametable bank `8 + n` names (R77). -/
def Mirroring.page : Mirroring → Nat → Nat
  | .horizontal, n => n / 2
  | .vertical, n => n % 2
  | .singleA, _ => 0
  | .singleB, _ => 1
  | .fourScreen, n => n

/-- One nametable bank: banks 12 to 15 repeat banks 8 to 11 (R77). -/
def Mirroring.ntCall (m : Mirroring) (bank : Nat) : MapCall :=
  { buf := .vram, writable := true, target := 1024 * bank, start := 1024 * m.page (bank % 4), len := 1024 }

/-- `SetMirroring(mode)` (R77). -/
def Mirroring.calls (m : Mirroring) : List MapCall :=
  [m.ntCall 8, m.ntCall 9, m.ntCall 10, m.ntCall 11, m.ntCall 12, m.ntCall 13, m.ntCall 14, m.ntCall 15]

/-- Mirroring from header byte 6 bits 0 and 3 (R530). -/
def Cart.headerMirroring (c : Cart) : Mirroring :=
  if c.headerFourScreen then .fourScreen else if c.headerVertical then .vertical else .horizontal

/-- The mirroring mode the mapper's registers select (R530 to R535). -/
def Cart.selectedMirroring (c : Cart) : Mirroring :=
  match c.mapper with
  | .nrom => c.headerMirroring
  | .mmc1 r =>
    match (r.control &&& 3).toNat with
    | 0 => .singleA
    | 1 => .singleB
    | 2 => .vertical
    | _ => .horizontal
  | .uxrom _ => c.headerMirroring
  | .cnrom _ => c.headerMirroring
  | .mmc3 r => if c.headerFourScreen then .fourScreen else if r.mirror then .horizontal else .vertical
  | .axrom reg => if reg.getLsbD 4 then .singleB else .singleA

/-- `R[k]` of MMC3. -/
def Mmc3.reg (r : Mmc3) (k : Nat) : Byte := r.regs.getD k 0

/-- NROM's PRG windows, shared by CNROM (R530, R533). -/
def Cart.nromPrg (c : Cart) : List MapCall := [c.prg16 0x8000 0, c.prg16 0xC000 (c.lastPrg 16384)]

/-- The PRG windows of the mapper (R530 to R535). -/
def Cart.prgCalls (c : Cart) : List MapCall :=
  match c.mapper with
  | .nrom => c.nromPrg
  | .mmc1 r =>
    match (r.control >>> 2 &&& 3).toNat with
    | 2 => [c.prg16 0x8000 0, c.prg16 0xC000 (r.prg &&& 15).toNat]
    | 3 => [c.prg16 0x8000 (r.prg &&& 15).toNat, c.prg16 0xC000 (c.lastPrg 16384)]
    | _ => c.prg32 (r.prg >>> 1 &&& 7).toNat
  | .uxrom bank => [c.prg16 0x8000 bank.toNat, c.prg16 0xC000 (c.lastPrg 16384)]
  | .cnrom _ => c.nromPrg
  | .mmc3 r =>
    let swapped := r.bankSelect.getLsbD 6
    let fixed := c.lastPrg 8192 - 1
    [c.prg8 0x8000 (if swapped then fixed else (r.reg 6).toNat), c.prg8 0xA000 (r.reg 7).toNat,
     c.prg8 0xC000 (if swapped then (r.reg 6).toNat else fixed), c.prg8 0xE000 (c.lastPrg 8192)]
  | .axrom reg => c.prg32 (reg &&& 7).toNat

/-- The CHR windows of the mapper (R530 to R535). -/
def Cart.chrCalls (c : Cart) : List MapCall :=
  match c.mapper with
  | .nrom => [c.chrWindow 8192 0 0]
  | .mmc1 r =>
    if r.control.getLsbD 4 then [c.chrWindow 4096 0 r.chr0.toNat, c.chrWindow 4096 0x1000 r.chr1.toNat]
    else [c.chrWindow 8192 0 (r.chr0 >>> 1).toNat]
  | .uxrom _ => [c.chrWindow 8192 0 0]
  | .cnrom bank => [c.chrWindow 8192 0 bank.toNat]
  | .mmc3 r =>
    let pairs := if r.bankSelect.getLsbD 7 then 0x1000 else 0
    let singles := if r.bankSelect.getLsbD 7 then 0 else 0x1000
    [c.chrWindow 1024 pairs (r.reg 0 &&& 0xFE).toNat, c.chrWindow 1024 (pairs + 0x400) (r.reg 0 ||| 1).toNat,
     c.chrWindow 1024 (pairs + 0x800) (r.reg 1 &&& 0xFE).toNat, c.chrWindow 1024 (pairs + 0xC00) (r.reg 1 ||| 1).toNat,
     c.chrWindow 1024 singles (r.reg 2).toNat, c.chrWindow 1024 (singles + 0x400) (r.reg 3).toNat,
     c.chrWindow 1024 (singles + 0x800) (r.reg 4).toNat, c.chrWindow 1024 (singles + 0xC00) (r.reg 5).toNat]
  | .axrom _ => [c.chrWindow 8192 0 0]

/-- One of the four bindings of the work RAM (R66). -/
def ramCall (target : Nat) : MapCall := { buf := .ram, writable := true, target := target, start := 0, len := 2048 }

/-- Every `map` call on `CPUSPACE`: work RAM (R66), PRG RAM (R548), PRG. -/
def Cart.cpuCalls (c : Cart) : List MapCall :=
  [ramCall 0, ramCall 0x800, ramCall 0x1000, ramCall 0x1800,
   { buf := .prgRam, writable := true, target := 0x6000, start := 0, len := prgRamBytes }] ++ c.prgCalls

/-- Every `map` call on `PPUSPACE`: CHR, then the nametables. -/
def Cart.ppuCalls (c : Cart) : List MapCall := c.chrCalls ++ c.selectedMirroring.calls

/-- Perform `map` calls in order; `none` as soon as one violates its precondition. -/
def Cart.mapAll (c : Cart) (size : Nat) : List MapCall → Space → Option Space
  | [], sp => some sp
  | call :: rest, sp =>
    match Space.map? size (c.bufLen call.buf) call sp with
    | some sp' => c.mapAll size rest sp'
    | none => none

/-- `Remap()`, also `reload()` (R523, R524, R527): the tables and the mirroring mode from the registers and the buffer sizes alone.
`none` is the violated precondition of R61. -/
def Cart.remap (c : Cart) : Option Cart :=
  match c.mapAll 65536 c.cpuCalls (Space.unmapped 64), c.mapAll 16384 c.ppuCalls (Space.unmapped 16) with
  | some cs, some ps => some { c with mirroring := c.selectedMirroring, cpuSpace := cs, ppuSpace := ps }
  | _, _ => none

/-! ### Register writes (`handleROMWrite`, R523) -/

/-- MMC1's serial load (R531), for a write cycle that is not ignored. -/
def Mmc1.load (cyc : Nat) (a : Word) (v : Byte) (r : Mmc1) : Mmc1 :=
  let r : Mmc1 := { r with lastWriteCyc := cyc }
  if v.getLsbD 7 then { r with shiftReg := 0, shiftCount := 0, control := r.control ||| 0x0C }
  else
    let half := r.shiftReg >>> 1
    let full := half ||| (if v.getLsbD 0 then 0x10 else 0)
    if r.shiftCount + 1 = 5 then
      let r : Mmc1 := { r with shiftReg := 0, shiftCount := 0 }
      match (a.toNat / 8192) % 4 with
      | 0 => { r with control := full }
      | 1 => { r with chr0 := full }
      | 2 => { r with chr1 := full }
      | _ => { r with prg := full }
    else { r with shiftReg := full, shiftCount := r.shiftCount + 1 }

/-- Replace entry `k` of a list of registers. -/
def setNth (v : Byte) : Nat → List Byte → List Byte
  | _, [] => []
  | 0, _ :: rest => v :: rest
  | k + 1, b :: rest => b :: setNth v k rest

/-- MMC3's registers (R535). -/
def Mmc3.load (a : Word) (v : Byte) (r : Mmc3) : Mmc3 :=
  match (a.toNat / 8192) % 4, a.getLsbD 0 with
  | 0, false => { r with bankSelect := v }
  | 0, true => { r with regs := setNth v (r.bankSelect &&& 7).toNat r.regs }
  | 1, false => { r with mirror := v.getLsbD 0 }
  | 1, true => { r with ramProtect := v }
  | 2, false => { r with irqLatch := v }
  | 2, true => { r with irqCounter := 0, irqReload := true }
  | _, false => { r with irqEnabled := false, irqFlag := false }
  | _, true => { r with irqEnabled := true }

/-- The second of two consecutive write cycles, which MMC1 ignores (R531). -/
def Mmc1.ignores (cyc : Nat) (r : Mmc1) : Bool := decide (cyc = r.lastWriteCyc + 1)

/-- The cartridge with its mapper's registers replaced. -/
def Cart.withMapper (c : Cart) (m : Mapper) : Cart := { c with mapper := m }

/-- `Remap()` as a register write performs it: the cartridge, and whether every `map` call met its precondition.
Where one did not, the registers stay written and the tables stay as they were (R341: nothing is rolled back; `raise Fault` is the caller's). -/
def Cart.tryRemap (c : Cart) : Cart × Bool :=
  match c.remap with
  | some c' => (c', true)
  | none => (c, false)

/-- `handleROMWrite(a, v)` in the write cycle `cyc` (R523, R530 to R535); `false` is a violated precondition of its remapping (R61). -/
def Cart.romWrite (cyc : Nat) (a : Word) (v : Byte) (c : Cart) : Cart × Bool :=
  match c.mapper with
  | .nrom => (c, true)
  | .mmc1 r =>
    if r.ignores cyc then (c.withMapper (.mmc1 { r with lastWriteCyc := cyc }), true)
    else (c.withMapper (.mmc1 (r.load cyc a v))).tryRemap
  | .uxrom _ => (c.withMapper (.uxrom v)).tryRemap
  | .cnrom _ => (c.withMapper (.cnrom v)).tryRemap
  | .mmc3 r => (c.withMapper (.mmc3 (r.load a v))).tryRemap
  | .axrom _ => (c.withMapper (.axrom v)).tryRemap

/-! ### Power-on values (R531 to R535, R540) -/

/-- MMC1 at power-on (R531). -/
def Mmc1.powerOn : Mmc1 :=
  { shiftReg := 0, shiftCount := 0, control := 0x0C, chr0 := 0, chr1 := 0, prg := 0, lastWriteCyc := 0 }

/-- MMC3 at power-on (R535, R540). -/
def Mmc3.powerOn : Mmc3 :=
  { bankSelect := 0, regs := [0, 0, 0, 0, 0, 0, 0, 0], mirror := false, ramProtect := 0, irqLatch := 0, irqCounter := 0,
    irqReload := false, irqEnabled := false, irqFlag := false, a12 := false, a12LowSince := 0 }

/-- The mapper's registers at their power-on values (R50, R562). -/
def Mapper.powerOn : Mapper → Mapper
  | .nrom => .nrom
  | .mmc1 _ => .mmc1 .powerOn
  | .uxrom _ => .uxrom 0
  | .cnrom _ => .cnrom 0
  | .mmc3 _ => .mmc3 .powerOn
  | .axrom _ => .axrom 0

/-! ### The scanline interrupt (R540 to R545) -/

/-- `ClockScanlineCounter()` (R541). -/
def Mmc3.clockCounter (r : Mmc3) : Mmc3 :=
  let r : Mmc3 := if r.irqCounter = 0 ∨ r.irqReload = true then { r with irqCounter := r.irqLatch, irqReload := false }
           else { r with irqCounter := r.irqCounter - 1 }
  if r.irqCounter = 0 ∧ r.irqEnabled = true then { r with irqFlag := true } else r

/-- `handleVRAMAddressChange(a)` of MMC3 at dot count `now` (R545). -/
def Mmc3.watch (now : Nat) (a : BitVec 14) (r : Mmc3) : Mmc3 :=
  let b := a.getLsbD 12
  let fell := if r.a12 && !b then { r with a12LowSince := now } else r
  let rose := if !r.a12 && b && decide (fell.a12LowSince + a12FilterDots ≤ now) then fell.clockCounter else fell
  { rose with a12 := b }

/-- `handleVRAMAddressChange(a)` (R525, R545): nothing for every mapper but MMC3. -/
def Mapper.watch (now : Nat) (a : BitVec 14) : Mapper → Mapper
  | .mmc3 r => .mmc3 (r.watch now a)
  | m => m

/-- `handleVRAMAddressChange(a)` on the cartridge. -/
def Cart.watch (now : Nat) (a : BitVec 14) (c : Cart) : Cart := { c with mapper := c.mapper.watch now a }

/-- `Mapper.irqFlag` (R526, R544). -/
def Mapper.irqLine : Mapper → Bool
  | .mmc3 r => r.irqFlag
  | _ => false

/-- `PPU_OPEN_BUS(a)`, fixed by decision D14 to the low byte of the address (R76, U3). -/
def ppuOpenBus (a : BitVec 14) : Byte := a.extractLsb' 0 8

/-- `PpuRead(a)`, the mapper's `ppuRead`: it sees the address, then the space answers (R76, R525). -/
def Cart.ppuRead (mem : Buffers) (now : Nat) (a : BitVec 14) (c : Cart) : Byte × Cart :=
  ((c.ppuSpace.read mem a.toNat).getD (ppuOpenBus a), c.watch now a)

/-! ### What every constructed cartridge satisfies -/

/-- The size R529 asks for: at least one PRG unit. With it no `map` call of `Remap()` violates its precondition (R527). -/
def Cart.sized (c : Cart) : Bool := decide (1 ≤ c.prgUnits)

/-- The tables and the mirroring mode are what `Remap` computes from the registers and the sizes (R51, R527). -/
def Cart.mapped (c : Cart) : Prop := c.remap = some c

end Sys2Proof.Machine
end

