-- ==== Sys2Proof/Machine/Picture.lean ====
section
/-! DEFINITION. The picture processor: the raster state machine, background fetch, sprites, pixel composition and the registers $2000 to $2007 (spec file 61). -/

namespace Sys2Proof.Machine

/-! ### Conditions and lines -/

/-- `RenderingEnabled()` (R382). -/
def Ppu.rendering (p : Ppu) : Bool := p.mask.getLsbD 3 || p.mask.getLsbD 4

/-- `NmiLine()` (R393). -/
def Ppu.nmiLine (p : Ppu) : Bool := p.nmiOccurred && p.ctrl.getLsbD 7

/-- The raster is not fetching, so the address pins follow `V` (R399). -/
def Ppu.idle (p : Ppu) : Bool := !p.rendering || (decide (240 ≤ p.scanline) && decide (p.scanline ≤ 260))

/-! ### Palette RAM (R78) -/

/-- The palette index of an address after folding. -/
def paletteIndex (a : BitVec 14) : Nat :=
  let i := a.toNat % 32
  if i % 4 = 0 then i % 16 else i

/-- `PaletteRead(a)`. -/
def Ppu.paletteRead (p : Ppu) (a : BitVec 14) : Byte := p.palette.read (paletteIndex a)

/-- `PaletteWrite(a, v)`. -/
def Ppu.paletteWrite (p : Ppu) (a : BitVec 14) (v : Byte) : Ppu :=
  { p with palette := p.palette.write (paletteIndex a) (v &&& 0x3F) }

/-! ### Fetch addresses (R395 to R398) -/

/-- `NtAddr()` (R395). -/
def ntAddr (v : BitVec 15) : BitVec 14 := 0x2000 ||| (v &&& 0x0FFF).setWidth 14

/-- `AtAddr()` (R396). -/
def atAddr (v : BitVec 15) : BitVec 14 :=
  0x23C0 ||| (v &&& 0x0C00).setWidth 14 ||| ((v >>> 4) &&& 0x38).setWidth 14 ||| ((v >>> 2) &&& 0x07).setWidth 14

/-- `sh`, the place of the tile's two bits in the attribute byte (R396). -/
def atShift (v : BitVec 15) : Nat := (((v >>> 4) &&& 4) ||| (v &&& 2)).toNat

/-- `BgPatAddr()` (R397). -/
def bgPatAddr (ctrl nt : Byte) (v : BitVec 15) : BitVec 14 :=
  BitVec.ofNat 14 ((if ctrl.getLsbD 4 then 0x1000 else 0) + 16 * nt.toNat + (v >>> 12).toNat)

/-- `SprPatAddr(tile, row)` (R398), in integers: `row` may leave its range when `CTRL[5]` changes between selection and load. -/
def sprPatAddr (ctrl tile : Byte) (row : Int) : BitVec 14 :=
  if ctrl.getLsbD 5 then
    BitVec.ofInt 14 ((if tile.getLsbD 0 then 0x1000 else 0)
      + 16 * (((tile &&& 0xFE).toNat : Int) + (if 8 ≤ row then 1 else 0)) + row % 8)
  else
    BitVec.ofInt 14 ((if ctrl.getLsbD 3 then 0x1000 else 0) + 16 * (tile.toNat : Int) + row)

/-- The height of a sprite (R411). -/
def Ppu.spriteHeight (p : Ppu) : Nat := if p.ctrl.getLsbD 5 then 16 else 8

/-! ### The raster's changes to `V` (R388, R394) -/

/-- `v` with the bits of `mask` cleared. -/
def clearBits (mask v : BitVec 15) : BitVec 15 := v &&& ~~~mask

/-- `IncHoriz()`. -/
def incHoriz (v : BitVec 15) : BitVec 15 := if v &&& 0x1F = 0x1F then clearBits 0x1F v ^^^ 0x400 else v + 1

/-- `IncVert()`. -/
def incVert (v : BitVec 15) : BitVec 15 :=
  if (v >>> 12).toNat < 7 then v + 0x1000
  else
    let u : BitVec 15 := v &&& 0x0FFF
    let coarseY := ((v >>> 5) &&& 0x1F).toNat
    if coarseY = 29 then clearBits 0x3E0 u ^^^ 0x800
    else if coarseY = 31 then clearBits 0x3E0 u
    else u + 0x20

/-- The horizontal bits 10 and 4:0 of `T` copied to `V` (R388). -/
def copyHoriz (t v : BitVec 15) : BitVec 15 := clearBits 0x41F v ||| (t &&& 0x41F)

/-- The vertical bits 14:11 and 9:5 of `T` copied to `V` (R394). -/
def copyVert (t v : BitVec 15) : BitVec 15 := clearBits 0x7BE0 v ||| (t &&& 0x7BE0)

/-! ### Background pipeline (R387, R388) -/

/-- The shift at dots 1 to 256 and 321 to 336. -/
def Ppu.shiftBg (p : Ppu) : Ppu :=
  { p with bgShiftLo := p.bgShiftLo <<< 1, bgShiftHi := p.bgShiftHi <<< 1,
           atShiftLo := p.atShiftLo <<< 1, atShiftHi := p.atShiftHi <<< 1 }

/-- A 16-bit shift register with its low byte replaced. -/
def withLow (r : BitVec 16) (b : Byte) : BitVec 16 := (r &&& 0xFF00) ||| b.setWidth 16

/-- Phase 7: the tile enters the low bytes of the shift registers, then the horizontal position advances. -/
def Ppu.loadTile (p : Ppu) : Ppu :=
  { p with bgShiftLo := withLow p.bgShiftLo p.patLo, bgShiftHi := withLow p.bgShiftHi p.patHi,
           atShiftLo := withLow p.atShiftLo (pick (p.atByte.getLsbD 0) 0xFF 0),
           atShiftHi := withLow p.atShiftHi (pick (p.atByte.getLsbD 1) 0xFF 0),
           v := incHoriz p.v }

/-- The fetch of phase `(d - 1) mod 8` of the background cycle (R387). -/
def Ppu.fetchBg (mem : Buffers) (now d : Nat) (p : Ppu) (c : Cart) : Ppu × Cart :=
  match (d - 1) % 8 with
  | 0 => let r := c.ppuRead mem now (ntAddr p.v); ({ p with ntByte := r.1 }, r.2)
  | 2 => let r := c.ppuRead mem now (atAddr p.v); ({ p with atByte := (r.1 >>> atShift p.v) &&& 3 }, r.2)
  | 4 => let r := c.ppuRead mem now (bgPatAddr p.ctrl p.ntByte p.v); ({ p with patLo := r.1 }, r.2)
  | 6 => let r := c.ppuRead mem now (bgPatAddr p.ctrl p.ntByte p.v + 8); ({ p with patHi := r.1 }, r.2)
  | 7 => (p.loadTile, c)
  | _ => (p, c)

/-- The dot belongs to the background fetch cycle (R386, R387). -/
def fetchDot (d : Nat) : Bool := (decide (1 ≤ d) && decide (d ≤ 256)) || (decide (321 ≤ d) && decide (d ≤ 336))

/-- The vertical increment at dot 256 (R388). -/
def Ppu.scrollDot (d : Nat) (p : Ppu) : Ppu := if d = 256 then { p with v := incVert p.v } else p

/-- Shift, fetch, and the vertical increment at dot 256 (R386 to R388). -/
def Ppu.backgroundDot (mem : Buffers) (now d : Nat) (p : Ppu) (c : Cart) : Ppu × Cart :=
  if fetchDot d then
    let r := p.shiftBg.fetchBg mem now d c
    (r.1.scrollDot d, r.2)
  else (p, c)

/-! ### Sprites (R410 to R413) -/

/-- A byte `y` of OAM taken as a Y coordinate is in range on scanline `s` (R411). -/
def inRange (s h : Nat) (y : Byte) : Bool := decide (y.toNat ≤ s) && decide (s - y.toNat < h)

/-- Four bytes of OAM copied to secondary OAM slot `count` (R411). -/
def copySprite (oam : Memory) (n count : Nat) (sec : Memory) : Memory :=
  (((sec.write (4 * count) (oam.read (4 * n))).write (4 * count + 1) (oam.read (4 * n + 1))).write
    (4 * count + 2) (oam.read (4 * n + 2))).write (4 * count + 3) (oam.read (4 * n + 3))

/-- What the first loop of `SelectSprites` carries. -/
structure Selection where
  n : Nat
  count : Nat
  hasZero : Bool
  sec : Memory
  deriving DecidableEq, Repr

/-- The first loop of `SelectSprites` (R411), at most `fuel` more sprites. -/
def selectLoop (oam : Memory) (s h : Nat) : Nat → Selection → Selection
  | 0, q => q
  | fuel + 1, q =>
    if q.n < 64 ∧ q.count < 8 then
      if inRange s h (oam.read (4 * q.n)) then
        selectLoop oam s h fuel
          { n := q.n + 1, count := q.count + 1, hasZero := q.hasZero || decide (q.n = 0), sec := copySprite oam q.n q.count q.sec }
      else selectLoop oam s h fuel { q with n := q.n + 1 }
    else q

/-- The overflow search with the chip's faulty byte stepping (R411, R412): whether it finds a byte in range. -/
def overflowLoop (oam : Memory) (s h : Nat) : Nat → Nat → Nat → Bool
  | 0, _, _ => false
  | fuel + 1, n, m =>
    if n < 64 then
      if inRange s h (oam.read (4 * n + m)) then true else overflowLoop oam s h fuel (n + 1) ((m + 1) % 4)
    else false

/-- `SelectSprites(s)` (R411). -/
def Ppu.selectSprites (s : Nat) (p : Ppu) : Ppu :=
  let q := selectLoop p.oam s p.spriteHeight 64 { n := 0, count := 0, hasZero := false, sec := p.secOam }
  { p with secOam := q.sec, spriteOverflow := p.spriteOverflow || overflowLoop p.oam s p.spriteHeight 64 q.n 0,
           sprNextCount := q.count, sprNextHasZero := q.hasZero, oamAddr := 0 }

/-- The row of a sprite to draw on the next scanline, after vertical flip (R413). -/
def spriteRow (s h : Nat) (y attr : Byte) : Int :=
  let row : Int := (s : Int) - y.toNat
  if attr.getLsbD 7 then (h : Int) - 1 - row else row

/-- Load one sprite unit that is in use (R413). -/
def Ppu.loadUnit (mem : Buffers) (now s u : Nat) (p : Ppu) (c : Cart) : SpriteUnit × Cart :=
  let y := p.secOam.read (4 * u)
  let tile := p.secOam.read (4 * u + 1)
  let attr := p.secOam.read (4 * u + 2)
  let addr := sprPatAddr p.ctrl tile (spriteRow s p.spriteHeight y attr)
  let r := c.ppuRead mem now addr
  let r' := r.2.ppuRead mem now (addr + 8)
  ({ patLo := pick (attr.getLsbD 6) (bitReverse r.1) r.1, patHi := pick (attr.getLsbD 6) (bitReverse r'.1) r'.1,
     attr := attr, x := p.secOam.read (4 * u + 3), isZero := decide (u = 0) && p.sprNextHasZero }, r'.2)

/-- The dummy fetches of a unit that is not in use (R413). -/
def Ppu.idleUnit (mem : Buffers) (now : Nat) (p : Ppu) (old : SpriteUnit) (c : Cart) : SpriteUnit × Cart :=
  let addr := sprPatAddr p.ctrl 0xFF 0
  let r := c.ppuRead mem now addr
  let r' := r.2.ppuRead mem now (addr + 8)
  ({ old with patLo := 0, patHi := 0 }, r'.2)

/-- Load the units from number `u` on (R413). -/
def Ppu.loadUnits (mem : Buffers) (now s : Nat) (p : Ppu) : Nat → List SpriteUnit → Cart → List SpriteUnit × Cart
  | _, [], c => ([], c)
  | u, old :: rest, c =>
    let r := if u < p.sprNextCount then p.loadUnit mem now s u c else p.idleUnit mem now old c
    let q := p.loadUnits mem now s (u + 1) rest r.2
    (r.1 :: q.1, q.2)

/-- `LoadSprites()` on scanline `s` (R413). -/
def Ppu.loadSprites (mem : Buffers) (now s : Nat) (p : Ppu) (c : Cart) : Ppu × Cart :=
  let q := p.loadUnits mem now s 0 p.sprites c
  ({ p with sprites := q.1, sprCount := p.sprNextCount }, q.2)

/-! ### Pixel composition (R414 to R421) -/

/-- Bits `15 - X` of two shift registers as a number 0..3 (R415). -/
def twoBits (hiReg loReg : BitVec 16) (k : Nat) : Nat :=
  2 * (if hiReg.getLsbD k then 1 else 0) + (if loReg.getLsbD k then 1 else 0)

/-- `BgPixel(x)`: pixel and palette (R415). -/
def Ppu.bgPixel (p : Ppu) (x : Nat) : Nat × Nat :=
  if !p.mask.getLsbD 3 || (decide (x < 8) && !p.mask.getLsbD 1) then (0, 0)
  else (twoBits p.bgShiftHi p.bgShiftLo (15 - p.fineX.toNat), twoBits p.atShiftHi p.atShiftLo (15 - p.fineX.toNat))

/-- What `SpritePixel(x)` answers (R416). -/
structure SpritePixel where
  pix : Nat
  pal : Nat
  behind : Bool
  isZero : Bool
  deriving DecidableEq, Repr

/-- No sprite pixel. -/
def SpritePixel.clear : SpritePixel := { pix := 0, pal := 0, behind := false, isZero := false }

/-- The pixel of one unit at column `x`, 0 if the unit does not cover it (R416). -/
def SpriteUnit.pixel (u : SpriteUnit) (x : Nat) : Nat :=
  if u.x.toNat ≤ x ∧ x - u.x.toNat < 8 then
    let k := 7 - (x - u.x.toNat)
    2 * (if u.patHi.getLsbD k then 1 else 0) + (if u.patLo.getLsbD k then 1 else 0)
  else 0

/-- The first of the units, lowest index first, with a non-zero pixel at column `x` (R416). -/
def firstSprite (x : Nat) : List SpriteUnit → SpritePixel
  | [] => .clear
  | u :: rest =>
    if u.pixel x = 0 then firstSprite x rest
    else { pix := u.pixel x, pal := (u.attr &&& 3).toNat, behind := u.attr.getLsbD 5, isZero := u.isZero }

/-- `SpritePixel(x)` (R416). -/
def Ppu.spritePixel (p : Ppu) (x : Nat) : SpritePixel :=
  if !p.mask.getLsbD 4 || (decide (x < 8) && !p.mask.getLsbD 2) then .clear else firstSprite x (p.sprites.take p.sprCount)

/-- The palette index of a pixel: the priority table (R414, R417). -/
def composeIndex (bg bgPal : Nat) (sp : SpritePixel) : Nat :=
  if bg = 0 ∧ sp.pix = 0 then 0
  else if bg = 0 then 0x10 + 4 * sp.pal + sp.pix
  else if sp.pix = 0 then 4 * bgPal + bg
  else if sp.behind then 4 * bgPal + bg
  else 0x10 + 4 * sp.pal + sp.pix

/-- The pair `Colour(c)` indexes the host's table with: the greyscaled 6-bit colour above the emphasis bits (R419). -/
def Ppu.colour (p : Ppu) (c : Byte) : BitVec 9 :=
  (pick (p.mask.getLsbD 0) (c &&& 0x30) c).extractLsb' 0 6 ++ p.mask.extractLsb' 5 3

/-- The 32-bit colour the host's table gives a stored pixel (R42, R419). -/
def pixelColour (px : BitVec 9) : BitVec 32 := Config.systemPalette (px.extractLsb' 3 6) (px.extractLsb' 0 3)

/-- The address of palette entry `i`. -/
def paletteAddr (i : Nat) : BitVec 14 := BitVec.ofNat 14 (0x3F00 + i)

/-- `OutputPixel(s, x)` (R414, R418). -/
def Ppu.outputPixel (s x : Nat) (p : Ppu) : Ppu :=
  let bg := p.bgPixel x
  let sp := p.spritePixel x
  let hit := decide (bg.1 ≠ 0) && decide (sp.pix ≠ 0) && sp.isZero && decide (x ≠ 255)
  { p with spriteZeroHit := p.spriteZeroHit || hit,
           pixels := Pixels.write p.pixels (256 * s + x) (p.colour (p.paletteRead (paletteAddr (composeIndex bg.1 bg.2 sp)))) }

/-- The backdrop pixel of a scanline while rendering is disabled (R421). -/
def Ppu.outputBackdrop (s x : Nat) (p : Ppu) : Ppu :=
  { p with pixels := Pixels.write p.pixels (256 * s + x) (p.colour (p.paletteRead (paletteAddr 0))) }

/-! ### The raster (R384 to R394) -/

/-- Dot 1 of a visible scanline: secondary OAM is cleared (R386, R410). -/
def Ppu.clearDot (d : Nat) (p : Ppu) : Ppu := if d = 1 then { p with secOam := clearedSecOam } else p

/-- Dots 1 to 256 of a visible scanline: the pixel (R386, R414). -/
def Ppu.pixelDot (s d : Nat) (p : Ppu) : Ppu := if 1 ≤ d ∧ d ≤ 256 then p.outputPixel s (d - 1) else p

/-- Dot 257 of a visible scanline: horizontal copy, sprite selection, `oamAddr` cleared (R386, R388, R411). -/
def Ppu.selectDot (s d : Nat) (p : Ppu) : Ppu := if d = 257 then Ppu.selectSprites s { p with v := copyHoriz p.t p.v } else p

/-- Dot 321: the sprite units are loaded (R386, R413). -/
def Ppu.loadDot (mem : Buffers) (now s d : Nat) (p : Ppu) (c : Cart) : Ppu × Cart := if d = 321 then p.loadSprites mem now s c else (p, c)

/-- Dots 1 to 256 of a visible scanline while rendering is disabled: the backdrop (R421). -/
def Ppu.backdropDot (s d : Nat) (p : Ppu) : Ppu := if 1 ≤ d ∧ d ≤ 256 then p.outputBackdrop s (d - 1) else p

/-- `VisibleDot(s, d)` (R386). -/
def Ppu.visibleDot (mem : Buffers) (now s d : Nat) (p : Ppu) (c : Cart) : Ppu × Cart :=
  if p.rendering then
    let r := (((p.clearDot d).pixelDot s d).selectDot s d).loadDot mem now s d c
    r.1.backgroundDot mem now d r.2
  else (p.backdropDot s d, c)

/-- `VblankStart()` (R391). -/
def Ppu.vblankStart (p : Ppu) : Ppu := { p with nmiOccurred := p.nmiOccurred || !p.suppressVbl, suppressVbl := false }

/-- Dot 1 of the pre-render scanline: the three status flags are cleared (R394). -/
def Ppu.flagsDot (d : Nat) (p : Ppu) : Ppu :=
  if d = 1 then { p with nmiOccurred := false, spriteOverflow := false, spriteZeroHit := false } else p

/-- Dot 257 of the pre-render scanline: horizontal copy, no sprite selected, `oamAddr` cleared (R394). -/
def Ppu.horizontalDot (d : Nat) (p : Ppu) : Ppu :=
  if d = 257 then { p with v := copyHoriz p.t p.v, sprNextCount := 0, sprNextHasZero := false, oamAddr := 0 } else p

/-- Dot 280 of the pre-render scanline: vertical copy (R394). -/
def Ppu.verticalDot (d : Nat) (p : Ppu) : Ppu := if d = 280 then { p with v := copyVert p.t p.v } else p

/-- `PreRenderDot(d)` (R394), its statements in the order written. -/
def Ppu.preRenderDot (mem : Buffers) (now d : Nat) (p : Ppu) (c : Cart) : Ppu × Cart :=
  if (p.flagsDot d).rendering then
    let r := (p.flagsDot d).backgroundDot mem now d c
    ((r.1.horizontalDot d).verticalDot d).loadDot mem now 261 d r.2
  else (p.flagsDot d, c)

/-- Scanline 240: the frame counter (R390). -/
def Ppu.postRenderDot (d : Nat) (p : Ppu) : Ppu := if d = 0 then { p with frame := p.frame + 1 } else p

/-- Scanline 241: `VblankStart()` at dot 1 (R391). -/
def Ppu.vblankDot (d : Nat) (p : Ppu) : Ppu := if d = 1 then p.vblankStart else p

/-- The actions of the dot the pair (scanline, dot) names (R385). -/
def Ppu.dotActions (mem : Buffers) (now : Nat) (p : Ppu) (c : Cart) : Ppu × Cart :=
  if p.scanline ≤ 239 then p.visibleDot mem now p.scanline p.dot c
  else if p.scanline = 240 then (p.postRenderDot p.dot, c)
  else if p.scanline = 241 then (p.vblankDot p.dot, c)
  else if p.scanline = 261 then p.preRenderDot mem now p.dot c
  else (p, c)

/-- The raster position after the dot `(s, d)` (R385, R389): the odd-frame skip, the end of a line, the next dot. -/
def Ppu.advance (s d : Nat) (p : Ppu) : Ppu :=
  if s = 261 ∧ d = 339 ∧ p.rendering = true ∧ p.frame % 2 = 1 then { p with scanline := 0, dot := 0 }
  else if d = 340 then { p with dot := 0, scanline := (s + 1) % 262 }
  else { p with dot := d + 1 }

/-- `PpuDot()` (R385). -/
def Ppu.dotStep (mem : Buffers) (now : Nat) (p : Ppu) (c : Cart) : Ppu × Cart :=
  let r := p.dotActions mem now c
  (r.1.advance p.scanline p.dot, r.2)

/-! ### Registers (R400 to R409) -/

/-- The 14-bit address on the pins, `V & $3FFF`. -/
def vramAddr (v : BitVec 15) : BitVec 14 := v.setWidth 14

/-- The notification of R399 after the CPU changed `V`. -/
def Ppu.notify (now : Nat) (p : Ppu) (c : Cart) : Cart := if p.idle then c.watch now (vramAddr p.v) else c

/-- `V` after a data-port access (R408, R409). -/
def Ppu.stepV (p : Ppu) : BitVec 15 := p.v + (if p.ctrl.getLsbD 2 then 32 else 1)

/-- How many dots after the access of a read cycle the muted vblank's window holds: the next dot, or every dot of the second half-step, whose number R87 gives (R392, R571; log entry 27). -/
def muteDots (c : Config) : Nat :=
  match c.muteWindow with
  | .nextDot => 1
  | .secondHalf => if c.ppuOffset = 1 then 1 else 2

/-- (241, 1) is one of the next `k` dots of its scanline (R392, R571). -/
def Ppu.vblankWithin (k : Nat) (p : Ppu) : Bool := decide (p.scanline = 241) && decide (p.dot ≤ 1) && decide (1 < p.dot + k)

/-- `PpuRegRead(2)` (R403), its window of `k` dots. -/
def Ppu.readStatus (k : Nat) (p : Ppu) : Byte × Ppu :=
  let v := bitAt 7 p.nmiOccurred ||| bitAt 6 p.spriteZeroHit ||| bitAt 5 p.spriteOverflow ||| (p.ioLatch &&& 0x1F)
  (v, { p with nmiOccurred := false, w := false, ioLatch := v,
               suppressVbl := p.suppressVbl || p.vblankWithin k })

/-- `PpuRegRead(7)` (R408). -/
def Ppu.readData (mem : Buffers) (now : Nat) (p : Ppu) (c : Cart) : Byte × Ppu × Cart :=
  let a := vramAddr p.v
  let inPalette := decide (0x3F00 ≤ a.toNat)
  let r := c.ppuRead mem now (if inPalette then a - 0x1000 else a)
  let pal := (p.paletteRead a &&& pick (p.mask.getLsbD 0) 0x30 0x3F) ||| (p.ioLatch &&& 0xC0)
  let v := pick inPalette pal p.readBuffer
  let p' := { p with readBuffer := r.1, v := p.stepV, ioLatch := v }
  (v, p', p'.notify now r.2)

/-- `PpuRegRead(r)` (R400, R403, R405, R408); `mute` is the window of the muted vblank. -/
def Ppu.regRead (mem : Buffers) (now mute r : Nat) (p : Ppu) (c : Cart) : Byte × Ppu × Cart :=
  match r with
  | 2 => let q := p.readStatus mute; (q.1, q.2, c)
  | 4 => let v := p.oam.read p.oamAddr.toNat; (v, { p with ioLatch := v }, c)
  | 7 => p.readData mem now c
  | _ => (p.ioLatch, p, c)

/-- The `PPUCTRL` write (R401). -/
def Ppu.writeCtrl (v : Byte) (p : Ppu) : Ppu :=
  let nt : BitVec 15 := (v &&& 3).setWidth 15
  { p with ctrl := v, t := clearBits 0xC00 p.t ||| (nt <<< 10) }

/-- The `OAMDATA` write (R405). -/
def Ppu.writeOam (v : Byte) (p : Ppu) : Ppu :=
  { p with oam := p.oam.write p.oamAddr.toNat (pick (decide (p.oamAddr.toNat % 4 = 2)) (v &&& 0xE3) v), oamAddr := p.oamAddr + 1 }

/-- The `PPUSCROLL` write (R406). -/
def Ppu.writeScroll (v : Byte) (p : Ppu) : Ppu :=
  let fine : BitVec 15 := (v &&& 7).setWidth 15
  let coarse : BitVec 15 := (v >>> 3).setWidth 15
  if p.w then { p with t := clearBits 0x73E0 p.t ||| (fine <<< 12) ||| (coarse <<< 5), w := false }
  else { p with t := clearBits 0x1F p.t ||| coarse, fineX := v.extractLsb' 0 3, w := true }

/-- What a PPU register write answers. -/
structure PpuWritten where
  ppu : Ppu
  cart : Cart
  mem : Buffers
  deriving DecidableEq, Repr

/-- The `PPUADDR` write (R407). -/
def Ppu.writeAddr (mem : Buffers) (now : Nat) (v : Byte) (p : Ppu) (c : Cart) : PpuWritten :=
  if p.w then
    let t : BitVec 15 := clearBits 0xFF p.t ||| v.setWidth 15
    let p' : Ppu := { p with t := t, v := t, w := false }
    { ppu := p', cart := p'.notify now c, mem := mem }
  else
    let high : BitVec 15 := (v &&& 0x3F).setWidth 15
    { ppu := { p with t := (p.t &&& 0xFF) ||| (high <<< 8), w := true }, cart := c, mem := mem }

/-- `PpuRegWrite(7, v)` (R409). -/
def Ppu.writeData (mem : Buffers) (now : Nat) (v : Byte) (p : Ppu) (c : Cart) : PpuWritten :=
  let a := vramAddr p.v
  if a.toNat < 0x3F00 then
    let p' : Ppu := { p with v := p.stepV }
    { ppu := p', cart := p'.notify now (c.watch now a), mem := c.ppuSpace.write mem a.toNat v }
  else
    let p' : Ppu := { p.paletteWrite a (v &&& 0x3F) with v := p.stepV }
    { ppu := p', cart := p'.notify now c, mem := mem }

/-- `PpuRegWrite(r, v)` (R400 to R409): `ioLatch` first, then the register's own effect. -/
def Ppu.regWrite (mem : Buffers) (now r : Nat) (v : Byte) (p : Ppu) (c : Cart) : PpuWritten :=
  let p : Ppu := { p with ioLatch := v }
  match r with
  | 0 => { ppu := p.writeCtrl v, cart := c, mem := mem }
  | 1 => { ppu := { p with mask := v }, cart := c, mem := mem }
  | 3 => { ppu := { p with oamAddr := v }, cart := c, mem := mem }
  | 4 => { ppu := p.writeOam v, cart := c, mem := mem }
  | 5 => { ppu := p.writeScroll v, cart := c, mem := mem }
  | 6 => p.writeAddr mem now v c
  | 7 => p.writeData mem now v c
  | _ => { ppu := p, cart := c, mem := mem }

/-- The raster pair is a valid point of the 262 by 341 raster (R34, R381). -/
def Ppu.rasterValid (p : Ppu) : Prop := p.scanline < 262 ∧ p.dot < 341

end Sys2Proof.Machine
end

