-- ==== Sys2Proof/Machine/Sound.lean ====
section
/-! DEFINITION. The audio processor: frame sequencer, the five channel generators, the sample-playback channel, registers $4000 to $4017, mixer and filter (spec file 62). -/

namespace Sys2Proof.Machine

/-! ### Shared tables (R453) -/

/-- `LENGTH_TABLE`. -/
def lengthTable : List Byte :=
  [10, 254, 20, 2, 40, 4, 80, 6, 160, 8, 60, 10, 14, 12, 26, 14] ++ [12, 16, 24, 18, 48, 20, 96, 22, 192, 24, 72, 26, 16, 28, 32, 30]

/-- `DUTY`. -/
def dutyTable : List (List Nat) :=
  [[0, 1, 0, 0, 0, 0, 0, 0], [0, 1, 1, 0, 0, 0, 0, 0], [0, 1, 1, 1, 1, 0, 0, 0], [1, 0, 0, 1, 1, 1, 1, 1]]

/-- `NOISE_PERIOD`. -/
def noisePeriod : List Nat := [4, 8, 16, 32, 64, 96, 128, 160, 202, 254, 380, 508, 762, 1016, 2034, 4068]

/-- `DMC_RATE`. -/
def dmcRate : List Nat := [428, 380, 340, 320, 286, 254, 226, 214, 190, 160, 142, 128, 106, 84, 72, 54]

/-- `TRI[k]`: 15 down to 0, then 0 up to 15. -/
def triTable (k : Nat) : Nat := if k < 16 then 15 - k else k - 16

/-- `LENGTH_TABLE[v[7:3]]`. -/
def lengthOf (v : Byte) : Byte := lengthTable.getD (v >>> 3).toNat 0

/-! ### Length counter and envelope (R454) -/

/-- The length counter's half-frame clock. -/
def LengthCounter.clock (l : LengthCounter) : LengthCounter :=
  if !l.halt && decide (0 < l.value.toNat) then { l with value := l.value - 1 } else l

/-- A length load, which happens only while the channel is enabled. -/
def LengthCounter.load (v : Byte) (l : LengthCounter) : LengthCounter :=
  if l.enabled then { l with value := lengthOf v } else l

/-- The channel's enable bit: clearing it forces the length to 0 (R462). -/
def LengthCounter.enable (b : Bool) (l : LengthCounter) : LengthCounter :=
  if b then { l with enabled := true } else { l with enabled := false, value := 0 }

/-- `EnvelopeClock(e)`; `loop` is the channel's length-halt flag. -/
def Envelope.clock (loop : Bool) (e : Envelope) : Envelope :=
  if e.start then { e with start := false, decay := 15, divider := e.period }
  else if e.divider = 0 then
    { e with divider := e.period, decay := if e.decay ≠ 0 then e.decay - 1 else if loop then 15 else 0 }
  else { e with divider := e.divider - 1 }

/-- `Volume(e)`. -/
def Envelope.volume (e : Envelope) : Nat := if e.constant then e.period.toNat else e.decay.toNat

/-- The envelope fields of a control register (R455, R460). -/
def Envelope.control (v : Byte) (e : Envelope) : Envelope := { e with constant := v.getLsbD 4, period := v.extractLsb' 0 4 }

/-! ### Square generators (R455 to R458) -/

/-- `SweepTarget(s)` as an integer; `first` says that it is square 1, which subtracts one more (R456). -/
def Square.sweepTarget (first : Bool) (q : Square) : Int :=
  let c : Int := (q.timerPeriod.toNat >>> q.sweep.shift.toNat : Nat)
  if !q.sweep.negate then q.timerPeriod.toNat + c
  else if first then q.timerPeriod.toNat - c - 1 else q.timerPeriod.toNat - c

/-- `SweepMute(s)` (R456). -/
def Square.sweepMute (first : Bool) (q : Square) : Bool :=
  decide (q.timerPeriod.toNat < 8) || decide (0x7FF < q.sweepTarget first)

/-- `SweepClock(s)` (R456). -/
def Square.sweepClock (first : Bool) (q : Square) : Square :=
  let period := if decide (q.sweep.divider = 0) && q.sweep.enabled && decide (q.sweep.shift ≠ 0) && !q.sweepMute first
    then BitVec.ofInt 11 (max (q.sweepTarget first) 0) else q.timerPeriod
  let sweep : Sweep := if q.sweep.divider = 0 ∨ q.sweep.reload = true then { q.sweep with divider := q.sweep.period, reload := false }
    else { q.sweep with divider := q.sweep.divider - 1 }
  { q with timerPeriod := period, sweep := sweep }

/-- The timer of a square generator, on even cycles (R455). -/
def Square.timerStep (q : Square) : Square :=
  if q.timer = 0 then { q with timer := q.timerPeriod, dutyPos := q.dutyPos + 1 } else { q with timer := q.timer - 1 }

/-- The output of a square generator (R455). -/
def Square.output (first : Bool) (q : Square) : Nat :=
  if q.len.value = 0 ∨ (dutyTable.getD q.duty.toNat []).getD q.dutyPos.toNat 0 = 0 ∨ q.sweepMute first = true then 0
  else q.env.volume

/-- The low eight bits of an 11-bit timer period replaced (R457, R459). -/
def periodLow (v : Byte) (p : BitVec 11) : BitVec 11 := p.extractLsb' 8 3 ++ v

/-- The high three bits of an 11-bit timer period replaced (R458, R459). -/
def periodHigh (v : Byte) (p : BitVec 11) : BitVec 11 := v.extractLsb' 0 3 ++ p.extractLsb' 0 8

/-- The four registers of a square generator (R455 to R458). -/
def Square.write (r : Nat) (v : Byte) (q : Square) : Square :=
  match r with
  | 0 => { q with duty := v.extractLsb' 6 2, len := { q.len with halt := v.getLsbD 5 }, env := q.env.control v }
  | 1 => { q with sweep := { q.sweep with enabled := v.getLsbD 7, period := v.extractLsb' 4 3, negate := v.getLsbD 3,
                                          shift := v.extractLsb' 0 3, reload := true } }
  | 2 => { q with timerPeriod := periodLow v q.timerPeriod }
  | _ => { q with timerPeriod := periodHigh v q.timerPeriod, len := q.len.load v, dutyPos := 0, env := { q.env with start := true } }

/-! ### Triangle generator (R459) -/

/-- The linear counter's quarter-frame clock. -/
def Triangle.linearClock (t : Triangle) : Triangle :=
  { t with linearCounter := if t.linearReload then t.linearReloadValue
                            else if t.linearCounter ≠ 0 then t.linearCounter - 1 else 0,
           linearReload := t.linearReload && t.len.halt }

/-- `TriangleTimerStep()`. -/
def Triangle.timerStep (t : Triangle) : Triangle :=
  if t.timer = 0 then
    { t with timer := t.timerPeriod, seqPos := if t.len.value ≠ 0 ∧ t.linearCounter ≠ 0 then t.seqPos + 1 else t.seqPos }
  else { t with timer := t.timer - 1 }

/-- The output of the triangle generator. -/
def Triangle.output (t : Triangle) : Nat := triTable t.seqPos.toNat

/-- The registers `$4008` to `$400B`. -/
def Triangle.write (r : Nat) (v : Byte) (t : Triangle) : Triangle :=
  match r with
  | 0 => { t with len := { t.len with halt := v.getLsbD 7 }, linearReloadValue := v.extractLsb' 0 7 }
  | 1 => t
  | 2 => { t with timerPeriod := periodLow v t.timerPeriod }
  | _ => { t with timerPeriod := periodHigh v t.timerPeriod, len := t.len.load v, linearReload := true }

/-! ### Noise generator (R460) -/

/-- One shift of the noise generator's register. -/
def Noise.shift (q : Noise) : BitVec 15 :=
  BitVec.ofBool (q.lfsr.getLsbD 0 ^^ (if q.modeFlag then q.lfsr.getLsbD 6 else q.lfsr.getLsbD 1)) ++ q.lfsr.extractLsb' 1 14

/-- `NoiseTimerStep()`. -/
def Noise.timerStep (q : Noise) : Noise :=
  if q.timer = 0 then { q with timer := BitVec.ofNat 12 (noisePeriod.getD q.periodIndex.toNat 4 - 1), lfsr := q.shift }
  else { q with timer := q.timer - 1 }

/-- The output of the noise generator. -/
def Noise.output (q : Noise) : Nat := if q.lfsr.getLsbD 0 = true ∨ q.len.value = 0 then 0 else q.env.volume

/-- The registers `$400C` to `$400F`. -/
def Noise.write (r : Nat) (v : Byte) (q : Noise) : Noise :=
  match r with
  | 0 => { q with len := { q.len with halt := v.getLsbD 5 }, env := q.env.control v }
  | 1 => q
  | 2 => { q with modeFlag := v.getLsbD 7, periodIndex := v.extractLsb' 0 4 }
  | _ => { q with len := q.len.load v, env := { q.env with start := true } }

/-! ### Sample playback (R461, R467 to R469) -/

/-- `RestartSample()` (R468). -/
def Dmc.restart (d : Dmc) : Dmc :=
  { d with curAddr := 0xC000 + (d.sampleAddrReg.setWidth 16 <<< 6),
           bytesRemaining := (d.sampleLenReg.setWidth 12 <<< 4) + 1 }

/-- The output level after one bit of the sample (R467). -/
def Dmc.nextLevel (d : Dmc) : BitVec 7 :=
  if d.silence then d.outputLevel
  else if d.shiftReg.getLsbD 0 then (if d.outputLevel.toNat ≤ 125 then d.outputLevel + 2 else d.outputLevel)
  else (if 2 ≤ d.outputLevel.toNat then d.outputLevel - 2 else d.outputLevel)

/-- The end of an 8-bit output cycle, and whether `RequestDmcDma()` is called (R467). -/
def Dmc.nextByte (d : Dmc) : Dmc × Bool :=
  if d.bufferFull then
    ({ d with bitsRemaining := 8, silence := false, shiftReg := d.sampleBuffer, bufferFull := false }, decide (0 < d.bytesRemaining.toNat))
  else ({ d with bitsRemaining := 8, silence := true }, false)

/-- `DmcClockOutput()` (R467). -/
def Dmc.clockOutput (d : Dmc) : Dmc × Bool :=
  let q : Dmc := { d with outputLevel := d.nextLevel, shiftReg := d.shiftReg >>> 1, bitsRemaining := d.bitsRemaining - 1 }
  if q.bitsRemaining = 0 then q.nextByte else (q, false)

/-- `DmcTimerStep()` (R467): the channel and whether it requests a byte. -/
def Dmc.timerStep (d : Dmc) : Dmc × Bool :=
  if d.timer = 0 then Dmc.clockOutput { d with timer := BitVec.ofNat 9 (dmcRate.getD d.rateIndex.toNat 428 - 1) }
  else ({ d with timer := d.timer - 1 }, false)

/-- `ApuDmcDeliver(v)` (R468, R469). -/
def Dmc.deliver (v : Byte) (d : Dmc) : Dmc :=
  if d.bytesRemaining = 0 then d
  else
    let q : Dmc := { d with sampleBuffer := v, bufferFull := true, curAddr := if d.curAddr = 0xFFFF then 0x8000 else d.curAddr + 1,
                            bytesRemaining := d.bytesRemaining - 1 }
    if q.bytesRemaining = 0 then (if q.loop then q.restart else { q with irqFlag := q.irqFlag || q.irqEnabled }) else q

/-- The registers `$4010` to `$4013` (R461). -/
def Dmc.write (r : Nat) (v : Byte) (d : Dmc) : Dmc :=
  match r with
  | 0 => { d with irqEnabled := v.getLsbD 7, loop := v.getLsbD 6, rateIndex := v.extractLsb' 0 4, irqFlag := d.irqFlag && v.getLsbD 7 }
  | 1 => { d with outputLevel := v.extractLsb' 0 7 }
  | 2 => { d with sampleAddrReg := v }
  | _ => { d with sampleLenReg := v }

/-- Bit 4 of `$4015` (R462): the channel and whether it requests a byte. -/
def Dmc.enable (b : Bool) (d : Dmc) : Dmc × Bool :=
  if !b then ({ d with bytesRemaining := 0, irqFlag := false }, false)
  else if d.bytesRemaining = 0 then ({ d.restart with irqFlag := false }, !d.bufferFull)
  else ({ d with irqFlag := false }, false)

/-! ### Frame sequencer (R464 to R466) -/

/-- `Quarter()` (R465). -/
def Apu.quarter (a : Apu) : Apu :=
  { a with sq1 := { a.sq1 with env := a.sq1.env.clock a.sq1.len.halt }, sq2 := { a.sq2 with env := a.sq2.env.clock a.sq2.len.halt },
           noise := { a.noise with env := a.noise.env.clock a.noise.len.halt }, tri := a.tri.linearClock }

/-- `Half()` (R465): length counters, then the sweep units. -/
def Apu.half (a : Apu) : Apu :=
  { a with sq1 := Square.sweepClock true { a.sq1 with len := a.sq1.len.clock },
           sq2 := Square.sweepClock false { a.sq2 with len := a.sq2.len.clock },
           tri := { a.tri with len := a.tri.len.clock }, noise := { a.noise with len := a.noise.len.clock } }

/-- `FrameIrq()` (R466). -/
def FrameSeq.frameIrq (f : FrameSeq) : FrameSeq := { f with irqFlag := f.irqFlag || !f.irqInhibit }

/-- `ApplyFrameMode(v)` (R465). -/
def Apu.applyFrameMode (v : Byte) (a : Apu) : Apu :=
  let b : Apu := { a with seq := { a.seq with mode := v.getLsbD 7, cycle := 0, step := 0 } }
  if v.getLsbD 7 then b.quarter.half else b

/-- The delayed mode write (R464, R465). -/
def Apu.pendingMode (a : Apu) : Apu :=
  if a.seq.pendingDelay = 0 then a
  else
    let b : Apu := { a with seq := { a.seq with pendingDelay := a.seq.pendingDelay - 1 } }
    if b.seq.pendingDelay = 0 then b.applyFrameMode b.seq.pendingValue else b

/-- The 4-step schedule at elapsed cycle `n` (R465). -/
def Apu.fourStep (n : Nat) (a : Apu) : Apu :=
  if n = 7457 then { a.quarter with seq := { a.seq with step := 1 } }
  else if n = 14913 then { a.quarter.half with seq := { a.seq with step := 2 } }
  else if n = 22371 then { a.quarter with seq := { a.seq with step := 3 } }
  else if n = 29828 then { a with seq := a.seq.frameIrq }
  else if n = 29829 then { a.quarter.half with seq := { a.seq.frameIrq with step := 0 } }
  else if n = 29830 then { a with seq := { a.seq.frameIrq with cycle := 0 } }
  else a

/-- The 5-step schedule at elapsed cycle `n` (R465). -/
def Apu.fiveStep (n : Nat) (a : Apu) : Apu :=
  if n = 7457 then { a.quarter with seq := { a.seq with step := 1 } }
  else if n = 14913 then { a.quarter.half with seq := { a.seq with step := 2 } }
  else if n = 22371 then { a.quarter with seq := { a.seq with step := 3 } }
  else if n = 29829 then { a with seq := { a.seq with step := 4 } }
  else if n = 37281 then { a.quarter.half with seq := { a.seq with step := 0 } }
  else if n = 37282 then { a with seq := { a.seq with cycle := 0 } }
  else a

/-- `FrameSequencerStep()` (R465). -/
def Apu.sequencerStep (a : Apu) : Apu :=
  let b := a.pendingMode
  let c : Apu := { b with seq := { b.seq with cycle := b.seq.cycle + 1 } }
  if c.seq.mode then c.fiveStep c.seq.cycle else c.fourStep c.seq.cycle

/-! ### Output path (R471 to R474) -/

/-- `CPU_CLOCK_HZ` (R474). -/
def cpuClockHz : Nat := 1789773

/-- `pulse_out` of the averaged outputs of the two square generators (R471). -/
def pulseOut (p1 p2 : Rat) : Rat := if p1 + p2 = 0 then 0 else (9588 / 100) / (8128 / (p1 + p2) + 100)

/-- `tnd_out` of the averaged outputs of triangle, noise and sample channel (R471). -/
def tndOut (t n d : Rat) : Rat :=
  if t = 0 ∧ n = 0 ∧ d = 0 then 0 else (15979 / 100) / (1 / (t / 8227 + n / 12241 + d / 22638) + 100)

/-- `mixed` (R471). -/
def mix (p1 p2 t n d : Rat) : Rat := pulseOut p1 p2 + tndOut t n d

/-- The channels' outputs of one cycle added to the accumulators (R474). -/
def Apu.accumulate (a : Apu) : AudioOut :=
  { a.out with accSq1 := a.out.accSq1 + a.sq1.output true, accSq2 := a.out.accSq2 + a.sq2.output false,
               accTri := a.out.accTri + a.tri.output, accNoise := a.out.accNoise + a.noise.output,
               accDmc := a.out.accDmc + a.dmc.outputLevel.toNat, accCount := a.out.accCount + 1, bucket := a.out.bucket + 1 }

/-- The sample period in cycles (R474). -/
def samplePeriod (rateHz : Rat) : Rat := (cpuClockHz : Rat) / rateHz

/-- `Mix` of the averages (R474). -/
def AudioOut.mixed (o : AudioOut) : Rat :=
  let n : Rat := (o.accCount : Rat)
  mix (o.accSq1 / n) (o.accSq2 / n) (o.accTri / n) (o.accNoise / n) (o.accDmc / n)

/-- `sampleCallback(Filter(Mix(…)))` (R472, R474): the sample delivered is `prevOut`. -/
def AudioOut.deliver (r period : Rat) (o : AudioOut) : AudioOut :=
  { accSq1 := 0, accSq2 := 0, accTri := 0, accNoise := 0, accDmc := 0, accCount := 0, bucket := o.bucket - period,
    prevIn := o.mixed, prevOut := o.mixed - o.prevIn + r * o.prevOut, samples := o.samples + 1 }

/-- `AccumulateAndSample()` (R474). -/
def Apu.accumulateAndSample (cfg : Config) (a : Apu) : AudioOut :=
  let o := a.accumulate
  if samplePeriod cfg.sampleRateHz ≤ o.bucket then o.deliver cfg.dcFilterCoeff (samplePeriod cfg.sampleRateHz) else o

/-! ### One cycle (R451) -/

/-- `ApuStep()` in the cycle `cyc` (R451, R452): the processor and whether `RequestDmcDma()` was called. -/
def Apu.apuStep (cfg : Config) (cyc : Nat) (a : Apu) : Apu × Bool :=
  let b := a.sequencerStep
  let d := b.dmc.timerStep
  let c : Apu := { b with tri := b.tri.timerStep, noise := b.noise.timerStep, dmc := d.1,
                          sq1 := if cyc % 2 = 0 then b.sq1.timerStep else b.sq1,
                          sq2 := if cyc % 2 = 0 then b.sq2.timerStep else b.sq2 }
  ({ c with out := c.accumulateAndSample cfg }, d.2)

/-! ### Registers (R455 to R464, R470) -/

/-- `$4015` write (R462): the processor and whether `RequestDmcDma()` was called. -/
def Apu.writeEnable (v : Byte) (a : Apu) : Apu × Bool :=
  let d := a.dmc.enable (v.getLsbD 4)
  ({ a with sq1 := { a.sq1 with len := a.sq1.len.enable (v.getLsbD 0) }, sq2 := { a.sq2 with len := a.sq2.len.enable (v.getLsbD 1) },
            tri := { a.tri with len := a.tri.len.enable (v.getLsbD 2) }, noise := { a.noise with len := a.noise.len.enable (v.getLsbD 3) },
            dmc := d.1 }, d.2)

/-- `$4017` write in the cycle `cyc` (R464). -/
def FrameSeq.write (cyc : Nat) (v : Byte) (f : FrameSeq) : FrameSeq :=
  { f with irqInhibit := v.getLsbD 6, irqFlag := f.irqFlag && !v.getLsbD 6, pendingValue := v, pendingDelay := if cyc % 2 = 0 then 3 else 4 }

/-- `ApuRegWrite(a, v)` for the register `r = a - $4000` in the cycle `cyc` (R455 to R464): the processor and whether `RequestDmcDma()` was called. -/
def Apu.regWrite (cyc r : Nat) (v : Byte) (a : Apu) : Apu × Bool :=
  if r < 4 then ({ a with sq1 := a.sq1.write r v }, false)
  else if r < 8 then ({ a with sq2 := a.sq2.write (r - 4) v }, false)
  else if r < 12 then ({ a with tri := a.tri.write (r - 8) v }, false)
  else if r < 16 then ({ a with noise := a.noise.write (r - 12) v }, false)
  else if r < 20 then ({ a with dmc := a.dmc.write (r - 16) v }, false)
  else if r = 21 then a.writeEnable v
  else if r = 23 then ({ a with seq := a.seq.write cyc v }, false)
  else (a, false)

/-- The value of `ApuStatusRead()` with the data-bus latch `dbus` (R463). -/
def Apu.status (dbus : Byte) (a : Apu) : Byte :=
  (if a.dmc.irqFlag then 0x80 else 0) ||| (if a.seq.irqFlag then 0x40 else 0) ||| (dbus &&& 0x20)
    ||| (if a.dmc.bytesRemaining ≠ 0 then 0x10 else 0) ||| (if a.noise.len.value ≠ 0 then 8 else 0)
    ||| (if a.tri.len.value ≠ 0 then 4 else 0) ||| (if a.sq2.len.value ≠ 0 then 2 else 0) ||| (if a.sq1.len.value ≠ 0 then 1 else 0)

/-- `ApuStatusRead()` (R463): the read acknowledges the frame interrupt. -/
def Apu.readStatus (dbus : Byte) (a : Apu) : Byte × Apu := (a.status dbus, { a with seq := { a.seq with irqFlag := false } })

/-- The APU's level on the IRQ line (R348, R466, R469). -/
def Apu.irqLine (a : Apu) : Bool := a.seq.irqFlag || a.dmc.irqFlag

/-- The warm reset of the APU (R44 to R49, R562): silenced as by `$4015 <- 0`, its interrupt flags cleared, the frame sequencer restarted in its kept mode, the output path at 0.
In a kept 5-step mode `ApplyFrameMode` clocks `Quarter` and `Half`, so envelopes, sweep units and the linear counter advance once, although R44 to R46 say 'the rest unchanged'.
DESIGN CHOICE where the two differ, notes/assumptions/20.md. -/
def Apu.warmReset (a : Apu) : Apu :=
  let b := (a.writeEnable 0).1
  let c := Apu.applyFrameMode (if b.seq.mode then 0x80 else 0) { b with seq := { b.seq with irqFlag := false } }
  { c with out := Apu.powerOn.out }

end Sys2Proof.Machine
end

