-- ==== Sys2Proof/Machine/Ops.lean ====
section
/-! DEFINITION. The bus cycle: the tick protocol, the data phases, interrupt sampling, DMA, the stack, and taking and leaving an exception (spec files 20, 45, 60, 70). -/

namespace Sys2Proof.Machine

/-! ### Ticks (R80 to R83) -/

/-- The dots that fit before master-clock time `t` when `done` units have run: the iterations of `PpuRunTo(t)` (R82). -/
def dotsUntil (t done : Nat) : Nat := (t - done) / 4

/-- Run `n` dots from `PPUCLK = k` on (R82). -/
def runDots (mem : Buffers) : Nat → Nat → Ppu → Cart → Ppu × Cart
  | 0, _, p, c => (p, c)
  | n + 1, k, p, c =>
    match p.dotStep mem (k / 4) c with
    | (p', c') => runDots mem n (k + 4) p' c'

/-- Advance the master clock by `units` and run the PPU up to it (R81, R83). -/
def advance (units : Nat) (s : State) : State :=
  let n := dotsUntil (s.clk.mclk + units - s.cfg.ppuOffset.val) s.clk.ppuClk
  match runDots s.mem n s.clk.ppuClk s.ppu s.cart with
  | (p, c) => { s with clk := { s.clk with mclk := s.clk.mclk + units, ppuClk := s.clk.ppuClk + 4 * n }, ppu := p, cart := c }

/-- `RequestDmcDma()`, if `req` (R103). -/
def Dma.request (req : Bool) (d : Dma) : Dma :=
  if req && !d.dmcActive then { d with dmcActive := true, dmcWait := 2, haltReq := true } else d

/-- `StartSpriteDma(v)` (R102). -/
def Dma.startSprite (v : Byte) (d : Dma) : Dma := { d with spriteActive := true, spritePage := v, haltReq := true }

/-- `ApuStep()` in the cycle that has just begun, with the request it may raise (R81, R103). -/
def apuCycle (s : State) : State :=
  match s.apu.apuStep s.cfg s.clk.cyc with
  | (a, req) => { s with apu := a, dma := s.dma.request req }

/-- The kinds of bus access (R81). -/
inductive Access where
  | read
  | write
  deriving DecidableEq, Repr

/-- Master-clock units of the first half-step (R81). -/
def Access.before : Access → Nat
  | .read => 5
  | .write => 7

/-- Master-clock units of the second half-step (R83). -/
def Access.after : Access → Nat
  | .read => 7
  | .write => 5

/-- `StartTick(k)` (R81). -/
def startTick (k : Access) (s : State) : State :=
  apuCycle (advance k.before { s with clk := { s.clk with cyc := s.clk.cyc + 1 } })

/-- `EndTick(k)` (R83). -/
def endTick (k : Access) (s : State) : State := advance k.after s

/-! ### Interrupt lines (R347 to R349) -/

/-- `IrqLine()` (R348). -/
def State.irqLine (s : State) : Bool := s.apu.irqLine || s.cart.mapper.irqLine

/-- `NmiLine()` (R349, R393). -/
def State.nmiLine (s : State) : Bool := s.ppu.nmiLine

/-- The sample of the lines `nmi` and `irq`, the latter already masked (R347). -/
def IntUnit.sample (nmi irq : Bool) (u : IntUnit) : IntUnit :=
  { nmi := { active := u.nmi.pending, pending := u.nmi.pending || (nmi && !u.prevNmiLine) },
    irq := { active := u.irq.pending, pending := irq },
    prevNmiLine := nmi }

/-- `SampleInterruptLines()` (R347). -/
def sampleLines (s : State) : State := { s with int := s.int.sample s.nmiLine (s.irqLine && !s.cpu.p.i) }

/-! ### Controller ports (R371) -/

/-- `CtrlStrobe(v)`. -/
def Pads.writeStrobe (v : Byte) (p : Pads) : Pads :=
  if v.getLsbD 0 then { p with strobe := true, shift0 := p.buttons0, shift1 := p.buttons1 } else { p with strobe := false }

/-- The bit `CtrlRead` answers from shift register `shift` (or from the buttons while the strobe is high). -/
def padBit (strobe : Bool) (buttons shift : Byte) : Byte := bitAt 0 ((pick strobe buttons shift).getLsbD 0)

/-- A port's shift register after `CtrlRead`. -/
def padShift (strobe : Bool) (buttons shift : Byte) : Byte := if strobe then buttons else shift >>> 1 ||| 0x80

/-- `CtrlRead(0)`. -/
def Pads.read0 (p : Pads) : Byte × Pads :=
  (padBit p.strobe p.buttons0 p.shift0, { p with shift0 := padShift p.strobe p.buttons0 p.shift0 })

/-- `CtrlRead(1)`. -/
def Pads.read1 (p : Pads) : Byte × Pads :=
  (padBit p.strobe p.buttons1 p.shift1, { p with shift1 := padShift p.strobe p.buttons1 p.shift1 })

/-! ### Data phases (R68, R69, R71) -/

/-- The count of dots executed, `PPUCLK / 4` (R545). -/
def State.dots (s : State) : Nat := s.clk.ppuClk / 4

/-- A fresh free byte for a read of `a` that nothing answers. -/
def State.drawOpenBus (a : Word) (s : State) : Byte × State := (Config.openBusByte s.draws a, { s with draws := s.draws + 1 })

/-- `OpenBus(a)` under the launch parameter `CPU_OPEN_BUS` (R71). -/
def openBus (a : Word) (s : State) : Byte × State :=
  match s.cfg.cpuOpenBus with
  | .lastDriven => (s.dbus, s)
  | .addressHigh => (hi a, s)
  | .anyValue => s.drawOpenBus a

/-- The undriven bits of `$4015`, `$4016` and `$4017`: `DBUS` (R68, R463), or a free byte under U2's safe treatment. -/
def floatingBits (a : Word) (s : State) : Byte × State :=
  match s.cfg.cpuOpenBus with
  | .lastDriven => (s.dbus, s)
  | .addressHigh => (s.dbus, s)
  | .anyValue => s.drawOpenBus a

/-- The read of a PPU register (R68, R400); the window of the muted vblank is the launch's. -/
def readPpuReg (a : Word) (s : State) : Byte × State :=
  match s.ppu.regRead s.mem s.dots (muteDots s.cfg) (a.toNat % 8) s.cart with
  | (v, p, c) => (v, { s with ppu := p, cart := c })

/-- The read of `$4015` (R463). -/
def readApuStatus (s : State) : Byte × State :=
  let f := floatingBits 0x4015 s
  let r := s.apu.readStatus f.1
  (r.1, { f.2 with apu := r.2 })

/-- The read of `$4016` or `$4017` (R68, R371): `read` is the port's `CtrlRead`. -/
def readPad (a : Word) (read : Pads → Byte × Pads) (s : State) : Byte × State :=
  let f := floatingBits a s
  let r := read s.pads
  ((f.1 &&& 0xE0) ||| r.1, { f.2 with pads := r.2 })

/-- The read of an address the cartridge may answer (R68, R522). -/
def readCartridge (a : Word) (s : State) : Byte × State :=
  match s.cart.cpuSpace.read s.mem a.toNat with
  | some v => (v, s)
  | none => openBus a s

/-- What answers a read of `a` (R66, R68), before the data-bus latch takes the value. -/
def busAnswer (a : Word) (s : State) : Byte × State :=
  if a.toNat < 0x2000 then (s.mem.ram.read (a.toNat % 2048), s)
  else if a.toNat < 0x4000 then readPpuReg a s
  else if a.toNat = 0x4015 then readApuStatus s
  else if a.toNat = 0x4016 then readPad a Pads.read0 s
  else if a.toNat = 0x4017 then readPad a Pads.read1 s
  else if a.toNat < 0x4020 then openBus a s
  else readCartridge a s

/-- `CpuBusRead(a)` (R68). -/
def busRead (a : Word) (s : State) : Byte × State :=
  match busAnswer a s with
  | (v, t) => (v, { t with dbus := v })

/-- The write of a PPU register (R69, R400). -/
def writePpuReg (a : Word) (v : Byte) (s : State) : State :=
  let w := s.ppu.regWrite s.mem s.dots (a.toNat % 8) v s.cart
  { s with ppu := w.ppu, cart := w.cart, mem := w.mem }

/-- The number of the APU register at an address from `$4000` to `$401F`: `a - $4000`, the address modulo 32. -/
def apuRegNumber (a : Word) : Nat := a.toNat % 32

/-- The write of an APU register (R69, R470). -/
def writeApuReg (a : Word) (v : Byte) (s : State) : State :=
  let w := s.apu.regWrite s.clk.cyc (apuRegNumber a) v
  { s with apu := w.1, dma := s.dma.request w.2 }

/-- `Mapper.handleROMWrite(a, v)` in this cycle, and the fault of a violated `map` precondition (R69, R342, R523). -/
def writeMapper (a : Word) (v : Byte) (s : State) : State :=
  match s.cart.romWrite s.clk.cyc a v with
  | (c, true) => { s with cart := c }
  | (c, false) => { s with cart := c, fault := some .configError }

/-- What a write of `v` to `a` reaches (R66, R69), after the data-bus latch has taken the value. -/
def busTarget (a : Word) (v : Byte) (s : State) : State :=
  if a.toNat < 0x2000 then { s with mem := { s.mem with ram := s.mem.ram.write (a.toNat % 2048) v } }
  else if a.toNat < 0x4000 then writePpuReg a v s
  else if a.toNat = 0x4014 then { s with dma := s.dma.startSprite v }
  else if a.toNat = 0x4016 then { s with pads := s.pads.writeStrobe v }
  else if a.toNat ≤ 0x4017 then writeApuReg a v s
  else if a.toNat < 0x4020 then s
  else if a.toNat < 0x8000 then { s with mem := s.cart.cpuSpace.write s.mem a.toNat v }
  else writeMapper a v s

/-- `CpuBusWrite(a, v)` (R69). -/
def busWrite (a : Word) (v : Byte) (s : State) : State := busTarget a v { s with dbus := v }

/-! ### Bus cycles (R84 to R86) -/

/-- Tick, access, sample, tick: a read cycle of the CPU or of the DMA engine (R84, R100). -/
def readCycle (a : Word) (s : State) : Byte × State :=
  match busRead a (startTick .read s) with
  | (v, t) => (v, endTick .read (sampleLines t))

/-- A write cycle (R85, R100). A fault raised by the access stops it there (R341). -/
def writeCycle (a : Word) (v : Byte) (s : State) : State :=
  let t := busWrite a v (startTick .write s)
  if t.fault.isSome then t else endTick .write (sampleLines t)

/-! ### DMA (R100 to R106) -/

/-- The start of every DMA cycle: the halt request is honoured and the countdown advances (R100). -/
def dmaPrologue (s : State) : State := { s with dma := { s.dma with haltReq := false, dmcWait := s.dma.dmcWait - 1 } }

/-- `DmaCycleRead(x)`. -/
def dmaCycleRead (x : Word) (s : State) : Byte × State := readCycle x (dmaPrologue s)

/-- `DmaCycleWrite(x, v)`. -/
def dmaCycleWrite (x : Word) (v : Byte) (s : State) : State := writeCycle x v (dmaPrologue s)

/-- The sample read has been made: the request is served and the byte delivered (R100, R468). -/
def dmcDone (v : Byte) (s : State) : State :=
  { s with dma := { s.dma with dmcActive := false }, apu := { s.apu with dmc := s.apu.dmc.deliver v } }

/-- The sprite transfer ends with its 512th cycle (R100). -/
def spriteDone (n : Nat) (s : State) : State := if n = 512 then { s with dma := { s.dma with spriteActive := false } } else s

/-- The loop of `RunDma(a)` with its counter `n` and its latch (R100). -/
def dmaLoop (a : Word) : Nat → Nat → Byte → State → State
  | 0, _, _, s => s
  | fuel + 1, n, latch, s =>
    if !s.dma.dmcActive && !s.dma.spriteActive then s
    else if s.clk.cyc % 2 = 0 then
      if s.dma.dmcActive && decide (s.dma.dmcWait = 0) then
        match dmaCycleRead s.apu.dmc.curAddr s with
        | (v, t) => dmaLoop a fuel n latch (dmcDone v t)
      else if s.dma.spriteActive then
        match dmaCycleRead (word s.dma.spritePage (BitVec.ofNat 8 (n / 2))) s with
        | (v, t) => dmaLoop a fuel (n + 1) v t
      else
        match dmaCycleRead a s with
        | (_, t) => dmaLoop a fuel n latch t
    else if s.dma.spriteActive && decide (n % 2 = 1) then
      dmaLoop a fuel (n + 1) latch (spriteDone (n + 1) (dmaCycleWrite 0x2004 latch s))
    else
      match dmaCycleRead a s with
      | (_, t) => dmaLoop a fuel n latch t

/-- More cycles than one `RunDma` can take: 514 of a sprite transfer, two for each sample fetch inside it, and the countdown (log entry 12). -/
def dmaFuel (s : State) : Nat := 1024 + s.dma.dmcWait

/-- `RunDma(a)` (R100): the halt cycle, then the transfers. -/
def runDma (a : Word) (s : State) : State :=
  match dmaCycleRead a s with
  | (_, t) => dmaLoop a (dmaFuel s) 0 0 t

/-! ### CPU accesses (R84, R85, R88) -/

/-- `MemRead(a, 1)` (R84). On a faulted machine nothing happens and the value, which no rule uses, is the bus latch. -/
def memRead (a : Word) (s : State) : Byte × State :=
  if s.fault.isSome then (s.dbus, s) else readCycle a (if s.dma.haltReq then runDma a s else s)

/-- `MemWrite(a, 1, v)` (R85). -/
def memWrite (a : Word) (v : Byte) (s : State) : State := if s.fault.isSome then s else writeCycle a v s

/-- `DummyRead(a)` (R88): a full read cycle, its value discarded. -/
def dummyRead (a : Word) (s : State) : State := (memRead a s).2

/-! ### Registers and the stack (R21, R22, R173) -/

/-- Replace the CPU registers. -/
def State.setCpu (c : Cpu) (s : State) : State := { s with cpu := c }

/-- `PC <- v`. -/
def State.setPc (v : Word) (s : State) : State := s.setCpu { s.cpu with pc := v }

/-- `S <- v`. -/
def State.setSp (v : Byte) (s : State) : State := s.setCpu { s.cpu with sp := v }

/-- `P <- v`. -/
def State.setP (v : Flags) (s : State) : State := s.setCpu { s.cpu with p := v }

/-- The address of the stack top, `$0100 + S` (R21). -/
def stackAddr (sp : Byte) : Word := word 1 sp

/-- `Push(v)` (R173). -/
def push (v : Byte) (s : State) : State :=
  let t := memWrite (stackAddr s.cpu.sp) v s
  t.setSp (t.cpu.sp - 1)

/-- `Pull()` (R173). -/
def pull (s : State) : Byte × State :=
  let t := s.setSp (s.cpu.sp + 1)
  memRead (stackAddr t.cpu.sp) t

/-- `DummyRead(PC)`, also `ImpliedCycle()` (R161). -/
def dummyPc (s : State) : State := dummyRead s.cpu.pc s

/-- `DummyRead($0100 + S)` (R173). -/
def dummyStack (s : State) : State := dummyRead (stackAddr s.cpu.sp) s

/-- `lo <- MemRead(vec, 1); hi <- MemRead(vec + 1, 1); PC <- word(hi, lo)`. -/
def loadPc (vec : Word) (s : State) : State :=
  match memRead vec s with
  | (l, t) =>
    match memRead (vec + 1) t with
    | (h, u) => u.setPc (word h l)

/-! ### Exceptions (R352, R353, R292, R293) -/

/-- `SelectVector()` (R353). -/
def selectVector (s : State) : Word × State :=
  if s.int.nmi.pending then (0xFFFA, { s with int := { s.int with nmi := ⟨false, false⟩ } }) else (0xFFFE, s)

/-- TAKING AN EXCEPTION, shared by `BRK` (`b = true`) and the interrupt sequence (`b = false`): the pushes of `PC` and `P`, the vector, `P.I` (R292, R352). -/
def takeException (b : Bool) (s : State) : State :=
  let t := push (lo s.cpu.pc) (push (hi s.cpu.pc) s)
  match selectVector t with
  | (vec, u) =>
    let w := push (u.cpu.p.toByte b) u
    loadPc vec (w.setP { w.cpu.p with i := true })

/-- `InterruptSequence()` (R352). -/
def interruptSequence (s : State) : State := takeException false (dummyPc (dummyPc s))

/-- RETURN FROM AN EXCEPTION (R293): `P`, then `PC`, from the stack. -/
def returnFromException (s : State) : State :=
  match pull (dummyStack (dummyPc s)) with
  | (v, t) =>
    match pull (t.setP (Flags.ofByte v)) with
    | (l, u) =>
      match pull u with
      | (h, w) => w.setPc (word h l)

/-! ### Reset (R561) -/

/-- One of the three stack cycles of the reset sequence: a read where an interrupt pushes. -/
def resetPush (s : State) : State :=
  let t := dummyStack s
  t.setSp (t.cpu.sp - 1)

/-- `ResetSequence()` (R561). -/
def resetSequence (s : State) : State :=
  let s0 : State := { s with int := { nmi := ⟨false, false⟩, irq := ⟨false, false⟩, prevNmiLine := false },
                             dma := { s.dma with haltReq := false, spriteActive := false, dmcActive := false, dmcWait := 0 } }
  let t := resetPush (resetPush (resetPush (dummyPc (dummyPc s0))))
  loadPc 0xFFFC (t.setP { t.cpu.p with i := true })

end Sys2Proof.Machine
end

