-- ==== Sys2Proof/Machine/Operands.lean ====
section
/-! DEFINITION. Every operand form: the bus cycles of the addressing modes after the operand bytes, and the templates of reading, storing and read-modify-write instructions (spec file 40). -/

namespace Sys2Proof.Machine

/-! ### Index arithmetic (R164, R166 to R170) -/

/-- `zext_16((z + r) mod 256)`: the sum never leaves page 0 (R164). -/
def zpIndexed (z r : Byte) : Word := zext (z + r)

/-- The index addition carries out of the low byte: a page is crossed (R166). -/
def crosses (base : Word) (r : Byte) : Bool := decide (255 < (lo base).toNat + r.toNat)

/-- The address with the right offset in the un-corrected page (R166). -/
def uncorrected (base : Word) (r : Byte) : Word := word (hi base) (lo base + r)

/-- `(base + r) mod 65536` (R166). -/
def indexed (base : Word) (r : Byte) : Word := base + zext r

/-- An absolute or indirect base indexed by an instruction that only reads: a dummy read if a page is crossed (R166, R169). -/
def indexRead (base : Word) (r : Byte) (s : State) : Word × State :=
  (indexed base r, if crosses base r then dummyRead (uncorrected base r) s else s)

/-- An absolute or indirect base indexed by a store or a read-modify-write: the dummy read is always made (R167, R170). -/
def indexStore (base : Word) (r : Byte) (s : State) : Word × State := (indexed base r, dummyRead (uncorrected base r) s)

/-- A pointer in page 0; its second byte is at the next zero-page address modulo 256 (R168, R169). -/
def zpPointer (p : Byte) (s : State) : Word × State :=
  match memRead (zext p) s with
  | (l, t) =>
    match memRead (zext (p + 1)) t with
    | (h, u) => (word h l, u)

/-- `AddrIzx()` after its operand byte (R168). -/
def addrIzx (z : Byte) (s : State) : Word × State :=
  let t := dummyRead (zext z) s
  zpPointer (z + t.cpu.x) t

/-! ### Addresses -/

/-- The address of a read operand (R163 to R169), with the cycles that form it. -/
def readAddress : MemMode → State → Word × State
  | .zp z, s => (zext z, s)
  | .zpx z, s => (zpIndexed z s.cpu.x, dummyRead (zext z) s)
  | .zpy z, s => (zpIndexed z s.cpu.y, dummyRead (zext z) s)
  | .abs a, s => (a, s)
  | .abx a, s => indexRead a s.cpu.x s
  | .aby a, s => indexRead a s.cpu.y s
  | .izx z, s => addrIzx z s
  | .izy z, s =>
    match zpPointer z s with
    | (base, t) => indexRead base t.cpu.y t

/-- `StoreAddress(mode)` (R175). -/
def storeAddress : MemMode → State → Word × State
  | .zp z, s => (zext z, s)
  | .zpx z, s => (zpIndexed z s.cpu.x, dummyRead (zext z) s)
  | .zpy z, s => (zpIndexed z s.cpu.y, dummyRead (zext z) s)
  | .abs a, s => (a, s)
  | .abx a, s => indexStore a s.cpu.x s
  | .aby a, s => indexStore a s.cpu.y s
  | .izx z, s => addrIzx z s
  | .izy z, s =>
    match zpPointer z s with
    | (base, t) => indexStore base t.cpu.y t

/-! ### Templates (R174 to R176) -/

/-- `ReadOperand(mode)` (R174). -/
def readOperand : Operand → State → Byte × State
  | .imm v, s => (v, s)
  | .mem m, s =>
    match readAddress m s with
    | (a, t) => memRead a t

/-- A read instruction: the operand, then the effect `f` on the registers (R174). -/
def readInstr (f : Byte → Cpu → Cpu) (o : Operand) (s : State) : State :=
  match readOperand o s with
  | (v, t) => t.setCpu (f v t.cpu)

/-- `Store(mode, v)` (R175). -/
def store (v : Byte) (m : MemMode) (s : State) : State :=
  match storeAddress m s with
  | (a, t) => memWrite a v t

/-- `Rmw(mode, f)` (R176), then the effect `g` of the result on the registers.
Flags are written after the last cycle; a fault raised by one of the writes stops the instruction before them (R341). -/
def rmwInstr (f : Byte → Flags → Byte × Flags) (g : Byte → Cpu → Cpu) (m : MemMode) (s : State) : State :=
  match storeAddress m s with
  | (a, t) =>
    match memRead a t with
    | (old, u) =>
      let r := f old u.cpu.p
      let w := memWrite a r.1 (memWrite a old u)
      if w.fault.isSome then w else w.setCpu (g r.1 { w.cpu with p := r.2 })

/-- A two-cycle implied instruction: `ImpliedCycle()`, then the effect `f` on the registers (R161). -/
def impliedInstr (f : Cpu → Cpu) (s : State) : State :=
  let t := dummyPc s
  t.setCpu (f t.cpu)

/-! ### Branches (R264) -/

/-- The target of a branch with displacement `d` when `PC` addresses the next instruction. -/
def branchTarget (pc : Word) (d : Byte) : Word := pc + sext d

/-- The branch leaves the page of the next instruction. -/
def branchCrosses (pc : Word) (d : Byte) : Bool := decide (hi (branchTarget pc d) ≠ hi pc)

/-- A taken branch, after its displacement has been fetched. -/
def takeBranch (d : Byte) (s : State) : State :=
  let pc := s.cpu.pc
  let t := dummyRead pc s
  let u := if branchCrosses pc d then dummyRead (word (hi pc) (lo (branchTarget pc d))) t else t
  u.setPc (branchTarget pc d)

/-- `Branch(cond)` after its displacement has been fetched (R264). -/
def branchInstr (cond : Bool) (d : Byte) (s : State) : State := if cond then takeBranch d s else s

/-! ### Unstable opcodes (R316 to R323): the values are free -/

/-- The draw counter advances. -/
def State.drawn (s : State) : State := { s with draws := s.draws + 1 }

/-- The address `UNSTABLE_SH` writes: the effective address, or one in the same offset of a free page if the index crossed a page (R323, U7). -/
def shAddress (n : Nat) (reg b2 : Byte) (crossed : Bool) (ea : Word) : Word :=
  if crossed then word (Config.unstableShHigh n reg b2 crossed ea) (lo ea) else ea

/-- A store of `UNSTABLE_SH(reg, …)` at `base` indexed by `idx`: the cycles of a store, a free byte written (R318 to R321). -/
def storeUnstable (reg : Byte) (base : Word) (idx : Byte) (s : State) : State :=
  match indexStore base idx s with
  | (ea, t) =>
    memWrite (shAddress t.draws reg (hi base) (crosses base idx) ea)
      (Config.unstableShValue t.draws reg (hi base) (crosses base idx) ea) t.drawn

/-- `LXA` (R316). -/
def lxaCpu (n : Nat) (m : Byte) (c : Cpu) : Cpu := c.lax (Config.unstableLxa n c.a m)

/-- `XAA` (R317). -/
def xaaCpu (n : Nat) (m : Byte) (c : Cpu) : Cpu := c.lda (Config.unstableXaa n c.a c.x m)

end Sys2Proof.Machine
end

