-- ==== Sys2Proof/Machine/Alu.lean ====
section
/-! DEFINITION. The meanings of arithmetic, logic, compare, bit test and register increment and decrement (spec file 42). -/

namespace Sys2Proof.Machine

/-! ### Add and subtract (42, R220, R221) -/

/-- `ADC (z,X)`, opcode `$61` (R220). -/
def execAdcIzx (z : Byte) (s : State) : Host.Outcome State Fault Refusal :=
  .next (readInstr Cpu.adc (.mem (.izx z)) s)

/-- `ADC z`, opcode `$65` (R220). -/
def execAdcZp (z : Byte) (s : State) : Host.Outcome State Fault Refusal :=
  .next (readInstr Cpu.adc (.mem (.zp z)) s)

/-- `ADC #v`, opcode `$69` (R220). -/
def execAdcImm (v : Byte) (s : State) : Host.Outcome State Fault Refusal :=
  .next (readInstr Cpu.adc (.imm v) s)

/-- `ADC a`, opcode `$6D` (R220). -/
def execAdcAbs (a : Word) (s : State) : Host.Outcome State Fault Refusal :=
  .next (readInstr Cpu.adc (.mem (.abs a)) s)

/-- `ADC (z),Y`, opcode `$71` (R220). -/
def execAdcIzy (z : Byte) (s : State) : Host.Outcome State Fault Refusal :=
  .next (readInstr Cpu.adc (.mem (.izy z)) s)

/-- `ADC z,X`, opcode `$75` (R220). -/
def execAdcZpx (z : Byte) (s : State) : Host.Outcome State Fault Refusal :=
  .next (readInstr Cpu.adc (.mem (.zpx z)) s)

/-- `ADC a,Y`, opcode `$79` (R220). -/
def execAdcAby (a : Word) (s : State) : Host.Outcome State Fault Refusal :=
  .next (readInstr Cpu.adc (.mem (.aby a)) s)

/-- `ADC a,X`, opcode `$7D` (R220). -/
def execAdcAbx (a : Word) (s : State) : Host.Outcome State Fault Refusal :=
  .next (readInstr Cpu.adc (.mem (.abx a)) s)

/-- `SBC (z,X)`, opcode `$E1` (R221). -/
def execSbcIzx (z : Byte) (s : State) : Host.Outcome State Fault Refusal :=
  .next (readInstr Cpu.sbc (.mem (.izx z)) s)

/-- `SBC z`, opcode `$E5` (R221). -/
def execSbcZp (z : Byte) (s : State) : Host.Outcome State Fault Refusal :=
  .next (readInstr Cpu.sbc (.mem (.zp z)) s)

/-- `SBC #v`, opcode `$E9` (R221). -/
def execSbcImm (v : Byte) (s : State) : Host.Outcome State Fault Refusal :=
  .next (readInstr Cpu.sbc (.imm v) s)

/-- `SBC a`, opcode `$ED` (R221). -/
def execSbcAbs (a : Word) (s : State) : Host.Outcome State Fault Refusal :=
  .next (readInstr Cpu.sbc (.mem (.abs a)) s)

/-- `SBC (z),Y`, opcode `$F1` (R221). -/
def execSbcIzy (z : Byte) (s : State) : Host.Outcome State Fault Refusal :=
  .next (readInstr Cpu.sbc (.mem (.izy z)) s)

/-- `SBC z,X`, opcode `$F5` (R221). -/
def execSbcZpx (z : Byte) (s : State) : Host.Outcome State Fault Refusal :=
  .next (readInstr Cpu.sbc (.mem (.zpx z)) s)

/-- `SBC a,Y`, opcode `$F9` (R221). -/
def execSbcAby (a : Word) (s : State) : Host.Outcome State Fault Refusal :=
  .next (readInstr Cpu.sbc (.mem (.aby a)) s)

/-- `SBC a,X`, opcode `$FD` (R221). -/
def execSbcAbx (a : Word) (s : State) : Host.Outcome State Fault Refusal :=
  .next (readInstr Cpu.sbc (.mem (.abx a)) s)

/-! ### Logic (42, R222 to R224) -/

/-- `AND (z,X)`, opcode `$21` (R222). -/
def execAndIzx (z : Byte) (s : State) : Host.Outcome State Fault Refusal :=
  .next (readInstr Cpu.and (.mem (.izx z)) s)

/-- `AND z`, opcode `$25` (R222). -/
def execAndZp (z : Byte) (s : State) : Host.Outcome State Fault Refusal :=
  .next (readInstr Cpu.and (.mem (.zp z)) s)

/-- `AND #v`, opcode `$29` (R222). -/
def execAndImm (v : Byte) (s : State) : Host.Outcome State Fault Refusal :=
  .next (readInstr Cpu.and (.imm v) s)

/-- `AND a`, opcode `$2D` (R222). -/
def execAndAbs (a : Word) (s : State) : Host.Outcome State Fault Refusal :=
  .next (readInstr Cpu.and (.mem (.abs a)) s)

/-- `AND (z),Y`, opcode `$31` (R222). -/
def execAndIzy (z : Byte) (s : State) : Host.Outcome State Fault Refusal :=
  .next (readInstr Cpu.and (.mem (.izy z)) s)

/-- `AND z,X`, opcode `$35` (R222). -/
def execAndZpx (z : Byte) (s : State) : Host.Outcome State Fault Refusal :=
  .next (readInstr Cpu.and (.mem (.zpx z)) s)

/-- `AND a,Y`, opcode `$39` (R222). -/
def execAndAby (a : Word) (s : State) : Host.Outcome State Fault Refusal :=
  .next (readInstr Cpu.and (.mem (.aby a)) s)

/-- `AND a,X`, opcode `$3D` (R222). -/
def execAndAbx (a : Word) (s : State) : Host.Outcome State Fault Refusal :=
  .next (readInstr Cpu.and (.mem (.abx a)) s)

/-- `ORA (z,X)`, opcode `$01` (R223). -/
def execOraIzx (z : Byte) (s : State) : Host.Outcome State Fault Refusal :=
  .next (readInstr Cpu.ora (.mem (.izx z)) s)

/-- `ORA z`, opcode `$05` (R223). -/
def execOraZp (z : Byte) (s : State) : Host.Outcome State Fault Refusal :=
  .next (readInstr Cpu.ora (.mem (.zp z)) s)

/-- `ORA #v`, opcode `$09` (R223). -/
def execOraImm (v : Byte) (s : State) : Host.Outcome State Fault Refusal :=
  .next (readInstr Cpu.ora (.imm v) s)

/-- `ORA a`, opcode `$0D` (R223). -/
def execOraAbs (a : Word) (s : State) : Host.Outcome State Fault Refusal :=
  .next (readInstr Cpu.ora (.mem (.abs a)) s)

/-- `ORA (z),Y`, opcode `$11` (R223). -/
def execOraIzy (z : Byte) (s : State) : Host.Outcome State Fault Refusal :=
  .next (readInstr Cpu.ora (.mem (.izy z)) s)

/-- `ORA z,X`, opcode `$15` (R223). -/
def execOraZpx (z : Byte) (s : State) : Host.Outcome State Fault Refusal :=
  .next (readInstr Cpu.ora (.mem (.zpx z)) s)

/-- `ORA a,Y`, opcode `$19` (R223). -/
def execOraAby (a : Word) (s : State) : Host.Outcome State Fault Refusal :=
  .next (readInstr Cpu.ora (.mem (.aby a)) s)

/-- `ORA a,X`, opcode `$1D` (R223). -/
def execOraAbx (a : Word) (s : State) : Host.Outcome State Fault Refusal :=
  .next (readInstr Cpu.ora (.mem (.abx a)) s)

/-- `EOR (z,X)`, opcode `$41` (R224). -/
def execEorIzx (z : Byte) (s : State) : Host.Outcome State Fault Refusal :=
  .next (readInstr Cpu.eor (.mem (.izx z)) s)

/-- `EOR z`, opcode `$45` (R224). -/
def execEorZp (z : Byte) (s : State) : Host.Outcome State Fault Refusal :=
  .next (readInstr Cpu.eor (.mem (.zp z)) s)

/-- `EOR #v`, opcode `$49` (R224). -/
def execEorImm (v : Byte) (s : State) : Host.Outcome State Fault Refusal :=
  .next (readInstr Cpu.eor (.imm v) s)

/-- `EOR a`, opcode `$4D` (R224). -/
def execEorAbs (a : Word) (s : State) : Host.Outcome State Fault Refusal :=
  .next (readInstr Cpu.eor (.mem (.abs a)) s)

/-- `EOR (z),Y`, opcode `$51` (R224). -/
def execEorIzy (z : Byte) (s : State) : Host.Outcome State Fault Refusal :=
  .next (readInstr Cpu.eor (.mem (.izy z)) s)

/-- `EOR z,X`, opcode `$55` (R224). -/
def execEorZpx (z : Byte) (s : State) : Host.Outcome State Fault Refusal :=
  .next (readInstr Cpu.eor (.mem (.zpx z)) s)

/-- `EOR a,Y`, opcode `$59` (R224). -/
def execEorAby (a : Word) (s : State) : Host.Outcome State Fault Refusal :=
  .next (readInstr Cpu.eor (.mem (.aby a)) s)

/-- `EOR a,X`, opcode `$5D` (R224). -/
def execEorAbx (a : Word) (s : State) : Host.Outcome State Fault Refusal :=
  .next (readInstr Cpu.eor (.mem (.abx a)) s)

/-! ### Compare and bit test (42, R225 to R228) -/

/-- `CMP (z,X)`, opcode `$C1` (R225). -/
def execCmpIzx (z : Byte) (s : State) : Host.Outcome State Fault Refusal :=
  .next (readInstr Cpu.cmp (.mem (.izx z)) s)

/-- `CMP z`, opcode `$C5` (R225). -/
def execCmpZp (z : Byte) (s : State) : Host.Outcome State Fault Refusal :=
  .next (readInstr Cpu.cmp (.mem (.zp z)) s)

/-- `CMP #v`, opcode `$C9` (R225). -/
def execCmpImm (v : Byte) (s : State) : Host.Outcome State Fault Refusal :=
  .next (readInstr Cpu.cmp (.imm v) s)

/-- `CMP a`, opcode `$CD` (R225). -/
def execCmpAbs (a : Word) (s : State) : Host.Outcome State Fault Refusal :=
  .next (readInstr Cpu.cmp (.mem (.abs a)) s)

/-- `CMP (z),Y`, opcode `$D1` (R225). -/
def execCmpIzy (z : Byte) (s : State) : Host.Outcome State Fault Refusal :=
  .next (readInstr Cpu.cmp (.mem (.izy z)) s)

/-- `CMP z,X`, opcode `$D5` (R225). -/
def execCmpZpx (z : Byte) (s : State) : Host.Outcome State Fault Refusal :=
  .next (readInstr Cpu.cmp (.mem (.zpx z)) s)

/-- `CMP a,Y`, opcode `$D9` (R225). -/
def execCmpAby (a : Word) (s : State) : Host.Outcome State Fault Refusal :=
  .next (readInstr Cpu.cmp (.mem (.aby a)) s)

/-- `CMP a,X`, opcode `$DD` (R225). -/
def execCmpAbx (a : Word) (s : State) : Host.Outcome State Fault Refusal :=
  .next (readInstr Cpu.cmp (.mem (.abx a)) s)

/-- `CPX #v`, opcode `$E0` (R226). -/
def execCpxImm (v : Byte) (s : State) : Host.Outcome State Fault Refusal :=
  .next (readInstr Cpu.cpx (.imm v) s)

/-- `CPX z`, opcode `$E4` (R226). -/
def execCpxZp (z : Byte) (s : State) : Host.Outcome State Fault Refusal :=
  .next (readInstr Cpu.cpx (.mem (.zp z)) s)

/-- `CPX a`, opcode `$EC` (R226). -/
def execCpxAbs (a : Word) (s : State) : Host.Outcome State Fault Refusal :=
  .next (readInstr Cpu.cpx (.mem (.abs a)) s)

/-- `CPY #v`, opcode `$C0` (R227). -/
def execCpyImm (v : Byte) (s : State) : Host.Outcome State Fault Refusal :=
  .next (readInstr Cpu.cpy (.imm v) s)

/-- `CPY z`, opcode `$C4` (R227). -/
def execCpyZp (z : Byte) (s : State) : Host.Outcome State Fault Refusal :=
  .next (readInstr Cpu.cpy (.mem (.zp z)) s)

/-- `CPY a`, opcode `$CC` (R227). -/
def execCpyAbs (a : Word) (s : State) : Host.Outcome State Fault Refusal :=
  .next (readInstr Cpu.cpy (.mem (.abs a)) s)

/-- `BIT z`, opcode `$24` (R228). -/
def execBitZp (z : Byte) (s : State) : Host.Outcome State Fault Refusal :=
  .next (readInstr Cpu.bit (.mem (.zp z)) s)

/-- `BIT a`, opcode `$2C` (R228). -/
def execBitAbs (a : Word) (s : State) : Host.Outcome State Fault Refusal :=
  .next (readInstr Cpu.bit (.mem (.abs a)) s)

/-! ### Register increment and decrement (42, R231 to R234) -/

/-- `INX`, opcode `$E8` (R231). -/
def execInx (s : State) : Host.Outcome State Fault Refusal :=
  .next (impliedInstr Cpu.inx s)

/-- `INY`, opcode `$C8` (R232). -/
def execIny (s : State) : Host.Outcome State Fault Refusal :=
  .next (impliedInstr Cpu.iny s)

/-- `DEX`, opcode `$CA` (R233). -/
def execDex (s : State) : Host.Outcome State Fault Refusal :=
  .next (impliedInstr Cpu.dex s)

/-- `DEY`, opcode `$88` (R234). -/
def execDey (s : State) : Host.Outcome State Fault Refusal :=
  .next (impliedInstr Cpu.dey s)

end Sys2Proof.Machine
end

