-- ==== Sys2Proof/Machine/Control.lean ====
section
/-! DEFINITION. The meanings of jumps, subroutine call and return, and branches (spec file 44). -/

namespace Sys2Proof.Machine

/-! ### Jumps, subroutines (44, R260 to R263) -/

/-- `JMP a`, opcode `$4C` (R260). The fetch has read both target bytes. -/
def execJmpAbs (a : Word) (s : State) : Host.Outcome State Fault Refusal :=
  .next (s.setPc a)

/-- `JMP (a)`, opcode `$6C` (R261). -/
def execJmpInd (a : Word) (s : State) : Host.Outcome State Fault Refusal :=
  match memRead a s with
  | (l, t) =>
    match memRead (word (hi a) (lo a + 1)) t with
    | (h, u) => .next (u.setPc (word h l))

/-- `JSR a`, opcode `$20` (R262). The high byte of the target is read last, after the pushes, so the operand's own high byte is not used (log entry 8). -/
def execJsr (a : Word) (s : State) : Host.Outcome State Fault Refusal :=
  let t := push (lo s.cpu.pc) (push (hi s.cpu.pc) (dummyStack s))
  match memRead t.cpu.pc t with
  | (h, u) => .next (u.setPc (word h (lo a)))

/-- `RTS`, opcode `$60` (R263). -/
def execRts (s : State) : Host.Outcome State Fault Refusal :=
  match pull (dummyStack (dummyPc s)) with
  | (l, t) =>
    match pull t with
    | (h, u) =>
      let w := dummyPc (u.setPc (word h l))
      .next (w.setPc (w.cpu.pc + 1))

/-! ### Conditional branches (44, R265 to R272) -/

/-- `BCC d`, opcode `$90` (R265). -/
def execBcc (d : Byte) (s : State) : Host.Outcome State Fault Refusal :=
  .next (branchInstr (!s.cpu.p.c) d s)

/-- `BCS d`, opcode `$B0` (R266). -/
def execBcs (d : Byte) (s : State) : Host.Outcome State Fault Refusal :=
  .next (branchInstr s.cpu.p.c d s)

/-- `BEQ d`, opcode `$F0` (R267). -/
def execBeq (d : Byte) (s : State) : Host.Outcome State Fault Refusal :=
  .next (branchInstr s.cpu.p.z d s)

/-- `BNE d`, opcode `$D0` (R268). -/
def execBne (d : Byte) (s : State) : Host.Outcome State Fault Refusal :=
  .next (branchInstr (!s.cpu.p.z) d s)

/-- `BMI d`, opcode `$30` (R269). -/
def execBmi (d : Byte) (s : State) : Host.Outcome State Fault Refusal :=
  .next (branchInstr s.cpu.p.n d s)

/-- `BPL d`, opcode `$10` (R270). -/
def execBpl (d : Byte) (s : State) : Host.Outcome State Fault Refusal :=
  .next (branchInstr (!s.cpu.p.n) d s)

/-- `BVC d`, opcode `$50` (R271). -/
def execBvc (d : Byte) (s : State) : Host.Outcome State Fault Refusal :=
  .next (branchInstr (!s.cpu.p.v) d s)

/-- `BVS d`, opcode `$70` (R272). -/
def execBvs (d : Byte) (s : State) : Host.Outcome State Fault Refusal :=
  .next (branchInstr s.cpu.p.v d s)

end Sys2Proof.Machine
end

