-- ==== Sys2Proof/Machine/Illegal.lean ====
section
/-! DEFINITION. The meanings of the stable illegal opcodes (spec file 46, part 2). -/

namespace Sys2Proof.Machine

/-! ### Illegal no-operation forms (46, R301) -/

/-- `*NOP z`, opcode `$04` (R301). -/
def execNopZp04 (z : Byte) (s : State) : Host.Outcome State Fault Refusal :=
  .next (readInstr Cpu.discard (.mem (.zp z)) s)

/-- `*NOP a`, opcode `$0C` (R301). -/
def execNopAbs0C (a : Word) (s : State) : Host.Outcome State Fault Refusal :=
  .next (readInstr Cpu.discard (.mem (.abs a)) s)

/-- `*NOP z,X`, opcode `$14` (R301). -/
def execNopZpx14 (z : Byte) (s : State) : Host.Outcome State Fault Refusal :=
  .next (readInstr Cpu.discard (.mem (.zpx z)) s)

/-- `*NOP`, opcode `$1A` (R301). -/
def execNopImp1A (s : State) : Host.Outcome State Fault Refusal :=
  .next (impliedInstr Cpu.nop s)

/-- `*NOP a,X`, opcode `$1C` (R301). -/
def execNopAbx1C (a : Word) (s : State) : Host.Outcome State Fault Refusal :=
  .next (readInstr Cpu.discard (.mem (.abx a)) s)

/-- `*NOP z,X`, opcode `$34` (R301). -/
def execNopZpx34 (z : Byte) (s : State) : Host.Outcome State Fault Refusal :=
  .next (readInstr Cpu.discard (.mem (.zpx z)) s)

/-- `*NOP`, opcode `$3A` (R301). -/
def execNopImp3A (s : State) : Host.Outcome State Fault Refusal :=
  .next (impliedInstr Cpu.nop s)

/-- `*NOP a,X`, opcode `$3C` (R301). -/
def execNopAbx3C (a : Word) (s : State) : Host.Outcome State Fault Refusal :=
  .next (readInstr Cpu.discard (.mem (.abx a)) s)

/-- `*NOP z`, opcode `$44` (R301). -/
def execNopZp44 (z : Byte) (s : State) : Host.Outcome State Fault Refusal :=
  .next (readInstr Cpu.discard (.mem (.zp z)) s)

/-- `*NOP z,X`, opcode `$54` (R301). -/
def execNopZpx54 (z : Byte) (s : State) : Host.Outcome State Fault Refusal :=
  .next (readInstr Cpu.discard (.mem (.zpx z)) s)

/-- `*NOP`, opcode `$5A` (R301). -/
def execNopImp5A (s : State) : Host.Outcome State Fault Refusal :=
  .next (impliedInstr Cpu.nop s)

/-- `*NOP a,X`, opcode `$5C` (R301). -/
def execNopAbx5C (a : Word) (s : State) : Host.Outcome State Fault Refusal :=
  .next (readInstr Cpu.discard (.mem (.abx a)) s)

/-- `*NOP z`, opcode `$64` (R301). -/
def execNopZp64 (z : Byte) (s : State) : Host.Outcome State Fault Refusal :=
  .next (readInstr Cpu.discard (.mem (.zp z)) s)

/-- `*NOP z,X`, opcode `$74` (R301). -/
def execNopZpx74 (z : Byte) (s : State) : Host.Outcome State Fault Refusal :=
  .next (readInstr Cpu.discard (.mem (.zpx z)) s)

/-- `*NOP`, opcode `$7A` (R301). -/
def execNopImp7A (s : State) : Host.Outcome State Fault Refusal :=
  .next (impliedInstr Cpu.nop s)

/-- `*NOP a,X`, opcode `$7C` (R301). -/
def execNopAbx7C (a : Word) (s : State) : Host.Outcome State Fault Refusal :=
  .next (readInstr Cpu.discard (.mem (.abx a)) s)

/-- `*NOP #v`, opcode `$80` (R301). -/
def execNopImm80 (v : Byte) (s : State) : Host.Outcome State Fault Refusal :=
  .next (readInstr Cpu.discard (.imm v) s)

/-- `*NOP #v`, opcode `$82` (R301). -/
def execNopImm82 (v : Byte) (s : State) : Host.Outcome State Fault Refusal :=
  .next (readInstr Cpu.discard (.imm v) s)

/-- `*NOP #v`, opcode `$89` (R301). -/
def execNopImm89 (v : Byte) (s : State) : Host.Outcome State Fault Refusal :=
  .next (readInstr Cpu.discard (.imm v) s)

/-- `*NOP #v`, opcode `$C2` (R301). -/
def execNopImmC2 (v : Byte) (s : State) : Host.Outcome State Fault Refusal :=
  .next (readInstr Cpu.discard (.imm v) s)

/-- `*NOP z,X`, opcode `$D4` (R301). -/
def execNopZpxD4 (z : Byte) (s : State) : Host.Outcome State Fault Refusal :=
  .next (readInstr Cpu.discard (.mem (.zpx z)) s)

/-- `*NOP`, opcode `$DA` (R301). -/
def execNopImpDA (s : State) : Host.Outcome State Fault Refusal :=
  .next (impliedInstr Cpu.nop s)

/-- `*NOP a,X`, opcode `$DC` (R301). -/
def execNopAbxDC (a : Word) (s : State) : Host.Outcome State Fault Refusal :=
  .next (readInstr Cpu.discard (.mem (.abx a)) s)

/-- `*NOP #v`, opcode `$E2` (R301). -/
def execNopImmE2 (v : Byte) (s : State) : Host.Outcome State Fault Refusal :=
  .next (readInstr Cpu.discard (.imm v) s)

/-- `*NOP z,X`, opcode `$F4` (R301). -/
def execNopZpxF4 (z : Byte) (s : State) : Host.Outcome State Fault Refusal :=
  .next (readInstr Cpu.discard (.mem (.zpx z)) s)

/-- `*NOP`, opcode `$FA` (R301). -/
def execNopImpFA (s : State) : Host.Outcome State Fault Refusal :=
  .next (impliedInstr Cpu.nop s)

/-- `*NOP a,X`, opcode `$FC` (R301). -/
def execNopAbxFC (a : Word) (s : State) : Host.Outcome State Fault Refusal :=
  .next (readInstr Cpu.discard (.mem (.abx a)) s)

/-! ### Stable illegal loads, stores and the duplicate SBC (46, R302 to R304) -/

/-- `*LAX (z,X)`, opcode `$A3` (R302). -/
def execLaxIzx (z : Byte) (s : State) : Host.Outcome State Fault Refusal :=
  .next (readInstr Cpu.lax (.mem (.izx z)) s)

/-- `*LAX z`, opcode `$A7` (R302). -/
def execLaxZp (z : Byte) (s : State) : Host.Outcome State Fault Refusal :=
  .next (readInstr Cpu.lax (.mem (.zp z)) s)

/-- `*LAX a`, opcode `$AF` (R302). -/
def execLaxAbs (a : Word) (s : State) : Host.Outcome State Fault Refusal :=
  .next (readInstr Cpu.lax (.mem (.abs a)) s)

/-- `*LAX (z),Y`, opcode `$B3` (R302). -/
def execLaxIzy (z : Byte) (s : State) : Host.Outcome State Fault Refusal :=
  .next (readInstr Cpu.lax (.mem (.izy z)) s)

/-- `*LAX z,Y`, opcode `$B7` (R302). -/
def execLaxZpy (z : Byte) (s : State) : Host.Outcome State Fault Refusal :=
  .next (readInstr Cpu.lax (.mem (.zpy z)) s)

/-- `*LAX a,Y`, opcode `$BF` (R302). -/
def execLaxAby (a : Word) (s : State) : Host.Outcome State Fault Refusal :=
  .next (readInstr Cpu.lax (.mem (.aby a)) s)

/-- `*SAX (z,X)`, opcode `$83` (R303). -/
def execSaxIzx (z : Byte) (s : State) : Host.Outcome State Fault Refusal :=
  .next (store (s.cpu.a &&& s.cpu.x) (.izx z) s)

/-- `*SAX z`, opcode `$87` (R303). -/
def execSaxZp (z : Byte) (s : State) : Host.Outcome State Fault Refusal :=
  .next (store (s.cpu.a &&& s.cpu.x) (.zp z) s)

/-- `*SAX a`, opcode `$8F` (R303). -/
def execSaxAbs (a : Word) (s : State) : Host.Outcome State Fault Refusal :=
  .next (store (s.cpu.a &&& s.cpu.x) (.abs a) s)

/-- `*SAX z,Y`, opcode `$97` (R303). -/
def execSaxZpy (z : Byte) (s : State) : Host.Outcome State Fault Refusal :=
  .next (store (s.cpu.a &&& s.cpu.x) (.zpy z) s)

/-- `*SBC #v`, opcode `$EB` (R304). -/
def execSbcImmEB (v : Byte) (s : State) : Host.Outcome State Fault Refusal :=
  .next (readInstr Cpu.sbc (.imm v) s)

/-! ### Stable illegal read-modify-write forms (46, R305 to R310) -/

/-- `*DCP (z,X)`, opcode `$C3` (R305). -/
def execDcpIzx (z : Byte) (s : State) : Host.Outcome State Fault Refusal :=
  .next (rmwInstr decFn Cpu.cmp (.izx z) s)

/-- `*DCP z`, opcode `$C7` (R305). -/
def execDcpZp (z : Byte) (s : State) : Host.Outcome State Fault Refusal :=
  .next (rmwInstr decFn Cpu.cmp (.zp z) s)

/-- `*DCP a`, opcode `$CF` (R305). -/
def execDcpAbs (a : Word) (s : State) : Host.Outcome State Fault Refusal :=
  .next (rmwInstr decFn Cpu.cmp (.abs a) s)

/-- `*DCP (z),Y`, opcode `$D3` (R305). -/
def execDcpIzy (z : Byte) (s : State) : Host.Outcome State Fault Refusal :=
  .next (rmwInstr decFn Cpu.cmp (.izy z) s)

/-- `*DCP z,X`, opcode `$D7` (R305). -/
def execDcpZpx (z : Byte) (s : State) : Host.Outcome State Fault Refusal :=
  .next (rmwInstr decFn Cpu.cmp (.zpx z) s)

/-- `*DCP a,Y`, opcode `$DB` (R305). -/
def execDcpAby (a : Word) (s : State) : Host.Outcome State Fault Refusal :=
  .next (rmwInstr decFn Cpu.cmp (.aby a) s)

/-- `*DCP a,X`, opcode `$DF` (R305). -/
def execDcpAbx (a : Word) (s : State) : Host.Outcome State Fault Refusal :=
  .next (rmwInstr decFn Cpu.cmp (.abx a) s)

/-- `*ISB (z,X)`, opcode `$E3` (R306). -/
def execIsbIzx (z : Byte) (s : State) : Host.Outcome State Fault Refusal :=
  .next (rmwInstr incFn Cpu.sbc (.izx z) s)

/-- `*ISB z`, opcode `$E7` (R306). -/
def execIsbZp (z : Byte) (s : State) : Host.Outcome State Fault Refusal :=
  .next (rmwInstr incFn Cpu.sbc (.zp z) s)

/-- `*ISB a`, opcode `$EF` (R306). -/
def execIsbAbs (a : Word) (s : State) : Host.Outcome State Fault Refusal :=
  .next (rmwInstr incFn Cpu.sbc (.abs a) s)

/-- `*ISB (z),Y`, opcode `$F3` (R306). -/
def execIsbIzy (z : Byte) (s : State) : Host.Outcome State Fault Refusal :=
  .next (rmwInstr incFn Cpu.sbc (.izy z) s)

/-- `*ISB z,X`, opcode `$F7` (R306). -/
def execIsbZpx (z : Byte) (s : State) : Host.Outcome State Fault Refusal :=
  .next (rmwInstr incFn Cpu.sbc (.zpx z) s)

/-- `*ISB a,Y`, opcode `$FB` (R306). -/
def execIsbAby (a : Word) (s : State) : Host.Outcome State Fault Refusal :=
  .next (rmwInstr incFn Cpu.sbc (.aby a) s)

/-- `*ISB a,X`, opcode `$FF` (R306). -/
def execIsbAbx (a : Word) (s : State) : Host.Outcome State Fault Refusal :=
  .next (rmwInstr incFn Cpu.sbc (.abx a) s)

/-- `*SLO (z,X)`, opcode `$03` (R307). -/
def execSloIzx (z : Byte) (s : State) : Host.Outcome State Fault Refusal :=
  .next (rmwInstr aslFn Cpu.ora (.izx z) s)

/-- `*SLO z`, opcode `$07` (R307). -/
def execSloZp (z : Byte) (s : State) : Host.Outcome State Fault Refusal :=
  .next (rmwInstr aslFn Cpu.ora (.zp z) s)

/-- `*SLO a`, opcode `$0F` (R307). -/
def execSloAbs (a : Word) (s : State) : Host.Outcome State Fault Refusal :=
  .next (rmwInstr aslFn Cpu.ora (.abs a) s)

/-- `*SLO (z),Y`, opcode `$13` (R307). -/
def execSloIzy (z : Byte) (s : State) : Host.Outcome State Fault Refusal :=
  .next (rmwInstr aslFn Cpu.ora (.izy z) s)

/-- `*SLO z,X`, opcode `$17` (R307). -/
def execSloZpx (z : Byte) (s : State) : Host.Outcome State Fault Refusal :=
  .next (rmwInstr aslFn Cpu.ora (.zpx z) s)

/-- `*SLO a,Y`, opcode `$1B` (R307). -/
def execSloAby (a : Word) (s : State) : Host.Outcome State Fault Refusal :=
  .next (rmwInstr aslFn Cpu.ora (.aby a) s)

/-- `*SLO a,X`, opcode `$1F` (R307). -/
def execSloAbx (a : Word) (s : State) : Host.Outcome State Fault Refusal :=
  .next (rmwInstr aslFn Cpu.ora (.abx a) s)

/-- `*RLA (z,X)`, opcode `$23` (R308). -/
def execRlaIzx (z : Byte) (s : State) : Host.Outcome State Fault Refusal :=
  .next (rmwInstr rolFn Cpu.and (.izx z) s)

/-- `*RLA z`, opcode `$27` (R308). -/
def execRlaZp (z : Byte) (s : State) : Host.Outcome State Fault Refusal :=
  .next (rmwInstr rolFn Cpu.and (.zp z) s)

/-- `*RLA a`, opcode `$2F` (R308). -/
def execRlaAbs (a : Word) (s : State) : Host.Outcome State Fault Refusal :=
  .next (rmwInstr rolFn Cpu.and (.abs a) s)

/-- `*RLA (z),Y`, opcode `$33` (R308). -/
def execRlaIzy (z : Byte) (s : State) : Host.Outcome State Fault Refusal :=
  .next (rmwInstr rolFn Cpu.and (.izy z) s)

/-- `*RLA z,X`, opcode `$37` (R308). -/
def execRlaZpx (z : Byte) (s : State) : Host.Outcome State Fault Refusal :=
  .next (rmwInstr rolFn Cpu.and (.zpx z) s)

/-- `*RLA a,Y`, opcode `$3B` (R308). -/
def execRlaAby (a : Word) (s : State) : Host.Outcome State Fault Refusal :=
  .next (rmwInstr rolFn Cpu.and (.aby a) s)

/-- `*RLA a,X`, opcode `$3F` (R308). -/
def execRlaAbx (a : Word) (s : State) : Host.Outcome State Fault Refusal :=
  .next (rmwInstr rolFn Cpu.and (.abx a) s)

/-- `*SRE (z,X)`, opcode `$43` (R309). -/
def execSreIzx (z : Byte) (s : State) : Host.Outcome State Fault Refusal :=
  .next (rmwInstr lsrFn Cpu.eor (.izx z) s)

/-- `*SRE z`, opcode `$47` (R309). -/
def execSreZp (z : Byte) (s : State) : Host.Outcome State Fault Refusal :=
  .next (rmwInstr lsrFn Cpu.eor (.zp z) s)

/-- `*SRE a`, opcode `$4F` (R309). -/
def execSreAbs (a : Word) (s : State) : Host.Outcome State Fault Refusal :=
  .next (rmwInstr lsrFn Cpu.eor (.abs a) s)

/-- `*SRE (z),Y`, opcode `$53` (R309). -/
def execSreIzy (z : Byte) (s : State) : Host.Outcome State Fault Refusal :=
  .next (rmwInstr lsrFn Cpu.eor (.izy z) s)

/-- `*SRE z,X`, opcode `$57` (R309). -/
def execSreZpx (z : Byte) (s : State) : Host.Outcome State Fault Refusal :=
  .next (rmwInstr lsrFn Cpu.eor (.zpx z) s)

/-- `*SRE a,Y`, opcode `$5B` (R309). -/
def execSreAby (a : Word) (s : State) : Host.Outcome State Fault Refusal :=
  .next (rmwInstr lsrFn Cpu.eor (.aby a) s)

/-- `*SRE a,X`, opcode `$5F` (R309). -/
def execSreAbx (a : Word) (s : State) : Host.Outcome State Fault Refusal :=
  .next (rmwInstr lsrFn Cpu.eor (.abx a) s)

/-- `*RRA (z,X)`, opcode `$63` (R310). -/
def execRraIzx (z : Byte) (s : State) : Host.Outcome State Fault Refusal :=
  .next (rmwInstr rorFn Cpu.adc (.izx z) s)

/-- `*RRA z`, opcode `$67` (R310). -/
def execRraZp (z : Byte) (s : State) : Host.Outcome State Fault Refusal :=
  .next (rmwInstr rorFn Cpu.adc (.zp z) s)

/-- `*RRA a`, opcode `$6F` (R310). -/
def execRraAbs (a : Word) (s : State) : Host.Outcome State Fault Refusal :=
  .next (rmwInstr rorFn Cpu.adc (.abs a) s)

/-- `*RRA (z),Y`, opcode `$73` (R310). -/
def execRraIzy (z : Byte) (s : State) : Host.Outcome State Fault Refusal :=
  .next (rmwInstr rorFn Cpu.adc (.izy z) s)

/-- `*RRA z,X`, opcode `$77` (R310). -/
def execRraZpx (z : Byte) (s : State) : Host.Outcome State Fault Refusal :=
  .next (rmwInstr rorFn Cpu.adc (.zpx z) s)

/-- `*RRA a,Y`, opcode `$7B` (R310). -/
def execRraAby (a : Word) (s : State) : Host.Outcome State Fault Refusal :=
  .next (rmwInstr rorFn Cpu.adc (.aby a) s)

/-- `*RRA a,X`, opcode `$7F` (R310). -/
def execRraAbx (a : Word) (s : State) : Host.Outcome State Fault Refusal :=
  .next (rmwInstr rorFn Cpu.adc (.abx a) s)

/-! ### Stable illegal immediates and LAS (46, R311 to R315) -/

/-- `*ANC #v`, opcode `$0B` (R311). -/
def execAncImm0B (v : Byte) (s : State) : Host.Outcome State Fault Refusal :=
  .next (readInstr Cpu.anc (.imm v) s)

/-- `*ANC #v`, opcode `$2B` (R311). -/
def execAncImm2B (v : Byte) (s : State) : Host.Outcome State Fault Refusal :=
  .next (readInstr Cpu.anc (.imm v) s)

/-- `*ALR #v`, opcode `$4B` (R312). -/
def execAlrImm (v : Byte) (s : State) : Host.Outcome State Fault Refusal :=
  .next (readInstr Cpu.alr (.imm v) s)

/-- `*ARR #v`, opcode `$6B` (R313). -/
def execArrImm (v : Byte) (s : State) : Host.Outcome State Fault Refusal :=
  .next (readInstr Cpu.arr (.imm v) s)

/-- `*AXS #v`, opcode `$CB` (R314). -/
def execAxsImm (v : Byte) (s : State) : Host.Outcome State Fault Refusal :=
  .next (readInstr Cpu.axs (.imm v) s)

/-- `*LAS a,Y`, opcode `$BB` (R315). -/
def execLasAby (a : Word) (s : State) : Host.Outcome State Fault Refusal :=
  .next (readInstr Cpu.las (.mem (.aby a)) s)

end Sys2Proof.Machine
end

