-- ==== Sys2Proof/Machine/LoadStore.lean ====
section
/-! DEFINITION. The meanings of the loads, stores and register transfers (spec file 41). -/

namespace Sys2Proof.Machine

/-! ### Loads (41, R190 to R192) -/

/-- `LDA (z,X)`, opcode `$A1` (R190). -/
def execLdaIzx (z : Byte) (s : State) : Host.Outcome State Fault Refusal :=
  .next (readInstr Cpu.lda (.mem (.izx z)) s)

/-- `LDA z`, opcode `$A5` (R190). -/
def execLdaZp (z : Byte) (s : State) : Host.Outcome State Fault Refusal :=
  .next (readInstr Cpu.lda (.mem (.zp z)) s)

/-- `LDA #v`, opcode `$A9` (R190). -/
def execLdaImm (v : Byte) (s : State) : Host.Outcome State Fault Refusal :=
  .next (readInstr Cpu.lda (.imm v) s)

/-- `LDA a`, opcode `$AD` (R190). -/
def execLdaAbs (a : Word) (s : State) : Host.Outcome State Fault Refusal :=
  .next (readInstr Cpu.lda (.mem (.abs a)) s)

/-- `LDA (z),Y`, opcode `$B1` (R190). -/
def execLdaIzy (z : Byte) (s : State) : Host.Outcome State Fault Refusal :=
  .next (readInstr Cpu.lda (.mem (.izy z)) s)

/-- `LDA z,X`, opcode `$B5` (R190). -/
def execLdaZpx (z : Byte) (s : State) : Host.Outcome State Fault Refusal :=
  .next (readInstr Cpu.lda (.mem (.zpx z)) s)

/-- `LDA a,Y`, opcode `$B9` (R190). -/
def execLdaAby (a : Word) (s : State) : Host.Outcome State Fault Refusal :=
  .next (readInstr Cpu.lda (.mem (.aby a)) s)

/-- `LDA a,X`, opcode `$BD` (R190). -/
def execLdaAbx (a : Word) (s : State) : Host.Outcome State Fault Refusal :=
  .next (readInstr Cpu.lda (.mem (.abx a)) s)

/-- `LDX #v`, opcode `$A2` (R191). -/
def execLdxImm (v : Byte) (s : State) : Host.Outcome State Fault Refusal :=
  .next (readInstr Cpu.ldx (.imm v) s)

/-- `LDX z`, opcode `$A6` (R191). -/
def execLdxZp (z : Byte) (s : State) : Host.Outcome State Fault Refusal :=
  .next (readInstr Cpu.ldx (.mem (.zp z)) s)

/-- `LDX a`, opcode `$AE` (R191). -/
def execLdxAbs (a : Word) (s : State) : Host.Outcome State Fault Refusal :=
  .next (readInstr Cpu.ldx (.mem (.abs a)) s)

/-- `LDX z,Y`, opcode `$B6` (R191). -/
def execLdxZpy (z : Byte) (s : State) : Host.Outcome State Fault Refusal :=
  .next (readInstr Cpu.ldx (.mem (.zpy z)) s)

/-- `LDX a,Y`, opcode `$BE` (R191). -/
def execLdxAby (a : Word) (s : State) : Host.Outcome State Fault Refusal :=
  .next (readInstr Cpu.ldx (.mem (.aby a)) s)

/-- `LDY #v`, opcode `$A0` (R192). -/
def execLdyImm (v : Byte) (s : State) : Host.Outcome State Fault Refusal :=
  .next (readInstr Cpu.ldy (.imm v) s)

/-- `LDY z`, opcode `$A4` (R192). -/
def execLdyZp (z : Byte) (s : State) : Host.Outcome State Fault Refusal :=
  .next (readInstr Cpu.ldy (.mem (.zp z)) s)

/-- `LDY a`, opcode `$AC` (R192). -/
def execLdyAbs (a : Word) (s : State) : Host.Outcome State Fault Refusal :=
  .next (readInstr Cpu.ldy (.mem (.abs a)) s)

/-- `LDY z,X`, opcode `$B4` (R192). -/
def execLdyZpx (z : Byte) (s : State) : Host.Outcome State Fault Refusal :=
  .next (readInstr Cpu.ldy (.mem (.zpx z)) s)

/-- `LDY a,X`, opcode `$BC` (R192). -/
def execLdyAbx (a : Word) (s : State) : Host.Outcome State Fault Refusal :=
  .next (readInstr Cpu.ldy (.mem (.abx a)) s)

/-! ### Stores (41, R193 to R195) -/

/-- `STA (z,X)`, opcode `$81` (R193). -/
def execStaIzx (z : Byte) (s : State) : Host.Outcome State Fault Refusal :=
  .next (store s.cpu.a (.izx z) s)

/-- `STA z`, opcode `$85` (R193). -/
def execStaZp (z : Byte) (s : State) : Host.Outcome State Fault Refusal :=
  .next (store s.cpu.a (.zp z) s)

/-- `STA a`, opcode `$8D` (R193). -/
def execStaAbs (a : Word) (s : State) : Host.Outcome State Fault Refusal :=
  .next (store s.cpu.a (.abs a) s)

/-- `STA (z),Y`, opcode `$91` (R193). -/
def execStaIzy (z : Byte) (s : State) : Host.Outcome State Fault Refusal :=
  .next (store s.cpu.a (.izy z) s)

/-- `STA z,X`, opcode `$95` (R193). -/
def execStaZpx (z : Byte) (s : State) : Host.Outcome State Fault Refusal :=
  .next (store s.cpu.a (.zpx z) s)

/-- `STA a,Y`, opcode `$99` (R193). -/
def execStaAby (a : Word) (s : State) : Host.Outcome State Fault Refusal :=
  .next (store s.cpu.a (.aby a) s)

/-- `STA a,X`, opcode `$9D` (R193). -/
def execStaAbx (a : Word) (s : State) : Host.Outcome State Fault Refusal :=
  .next (store s.cpu.a (.abx a) s)

/-- `STX z`, opcode `$86` (R194). -/
def execStxZp (z : Byte) (s : State) : Host.Outcome State Fault Refusal :=
  .next (store s.cpu.x (.zp z) s)

/-- `STX a`, opcode `$8E` (R194). -/
def execStxAbs (a : Word) (s : State) : Host.Outcome State Fault Refusal :=
  .next (store s.cpu.x (.abs a) s)

/-- `STX z,Y`, opcode `$96` (R194). -/
def execStxZpy (z : Byte) (s : State) : Host.Outcome State Fault Refusal :=
  .next (store s.cpu.x (.zpy z) s)

/-- `STY z`, opcode `$84` (R195). -/
def execStyZp (z : Byte) (s : State) : Host.Outcome State Fault Refusal :=
  .next (store s.cpu.y (.zp z) s)

/-- `STY a`, opcode `$8C` (R195). -/
def execStyAbs (a : Word) (s : State) : Host.Outcome State Fault Refusal :=
  .next (store s.cpu.y (.abs a) s)

/-- `STY z,X`, opcode `$94` (R195). -/
def execStyZpx (z : Byte) (s : State) : Host.Outcome State Fault Refusal :=
  .next (store s.cpu.y (.zpx z) s)

/-! ### Register transfers (41, R196 to R201) -/

/-- `TAX`, opcode `$AA` (R196). -/
def execTax (s : State) : Host.Outcome State Fault Refusal :=
  .next (impliedInstr Cpu.tax s)

/-- `TAY`, opcode `$A8` (R197). -/
def execTay (s : State) : Host.Outcome State Fault Refusal :=
  .next (impliedInstr Cpu.tay s)

/-- `TXA`, opcode `$8A` (R198). -/
def execTxa (s : State) : Host.Outcome State Fault Refusal :=
  .next (impliedInstr Cpu.txa s)

/-- `TYA`, opcode `$98` (R199). -/
def execTya (s : State) : Host.Outcome State Fault Refusal :=
  .next (impliedInstr Cpu.tya s)

/-- `TSX`, opcode `$BA` (R200). -/
def execTsx (s : State) : Host.Outcome State Fault Refusal :=
  .next (impliedInstr Cpu.tsx s)

/-- `TXS`, opcode `$9A` (R201). -/
def execTxs (s : State) : Host.Outcome State Fault Refusal :=
  .next (impliedInstr Cpu.txs s)

end Sys2Proof.Machine
end

