-- ==== Sys2Proof/Machine/Shift.lean ====
section
/-! DEFINITION. The meanings of the shifts, rotates and memory increment and decrement (spec file 43). -/

namespace Sys2Proof.Machine

/-! ### Shifts, rotates, memory increment and decrement (43, R250 to R255) -/

/-- `ASL z`, opcode `$06` (R250). -/
def execAslZp (z : Byte) (s : State) : Host.Outcome State Fault Refusal :=
  .next (rmwInstr aslFn Cpu.result (.zp z) s)

/-- `ASL A`, opcode `$0A` (R250). -/
def execAslAcc (s : State) : Host.Outcome State Fault Refusal :=
  .next (impliedInstr (Cpu.shiftA aslFn) s)

/-- `ASL a`, opcode `$0E` (R250). -/
def execAslAbs (a : Word) (s : State) : Host.Outcome State Fault Refusal :=
  .next (rmwInstr aslFn Cpu.result (.abs a) s)

/-- `ASL z,X`, opcode `$16` (R250). -/
def execAslZpx (z : Byte) (s : State) : Host.Outcome State Fault Refusal :=
  .next (rmwInstr aslFn Cpu.result (.zpx z) s)

/-- `ASL a,X`, opcode `$1E` (R250). -/
def execAslAbx (a : Word) (s : State) : Host.Outcome State Fault Refusal :=
  .next (rmwInstr aslFn Cpu.result (.abx a) s)

/-- `LSR z`, opcode `$46` (R251). -/
def execLsrZp (z : Byte) (s : State) : Host.Outcome State Fault Refusal :=
  .next (rmwInstr lsrFn Cpu.result (.zp z) s)

/-- `LSR A`, opcode `$4A` (R251). -/
def execLsrAcc (s : State) : Host.Outcome State Fault Refusal :=
  .next (impliedInstr (Cpu.shiftA lsrFn) s)

/-- `LSR a`, opcode `$4E` (R251). -/
def execLsrAbs (a : Word) (s : State) : Host.Outcome State Fault Refusal :=
  .next (rmwInstr lsrFn Cpu.result (.abs a) s)

/-- `LSR z,X`, opcode `$56` (R251). -/
def execLsrZpx (z : Byte) (s : State) : Host.Outcome State Fault Refusal :=
  .next (rmwInstr lsrFn Cpu.result (.zpx z) s)

/-- `LSR a,X`, opcode `$5E` (R251). -/
def execLsrAbx (a : Word) (s : State) : Host.Outcome State Fault Refusal :=
  .next (rmwInstr lsrFn Cpu.result (.abx a) s)

/-- `ROL z`, opcode `$26` (R252). -/
def execRolZp (z : Byte) (s : State) : Host.Outcome State Fault Refusal :=
  .next (rmwInstr rolFn Cpu.result (.zp z) s)

/-- `ROL A`, opcode `$2A` (R252). -/
def execRolAcc (s : State) : Host.Outcome State Fault Refusal :=
  .next (impliedInstr (Cpu.shiftA rolFn) s)

/-- `ROL a`, opcode `$2E` (R252). -/
def execRolAbs (a : Word) (s : State) : Host.Outcome State Fault Refusal :=
  .next (rmwInstr rolFn Cpu.result (.abs a) s)

/-- `ROL z,X`, opcode `$36` (R252). -/
def execRolZpx (z : Byte) (s : State) : Host.Outcome State Fault Refusal :=
  .next (rmwInstr rolFn Cpu.result (.zpx z) s)

/-- `ROL a,X`, opcode `$3E` (R252). -/
def execRolAbx (a : Word) (s : State) : Host.Outcome State Fault Refusal :=
  .next (rmwInstr rolFn Cpu.result (.abx a) s)

/-- `ROR z`, opcode `$66` (R253). -/
def execRorZp (z : Byte) (s : State) : Host.Outcome State Fault Refusal :=
  .next (rmwInstr rorFn Cpu.result (.zp z) s)

/-- `ROR A`, opcode `$6A` (R253). -/
def execRorAcc (s : State) : Host.Outcome State Fault Refusal :=
  .next (impliedInstr (Cpu.shiftA rorFn) s)

/-- `ROR a`, opcode `$6E` (R253). -/
def execRorAbs (a : Word) (s : State) : Host.Outcome State Fault Refusal :=
  .next (rmwInstr rorFn Cpu.result (.abs a) s)

/-- `ROR z,X`, opcode `$76` (R253). -/
def execRorZpx (z : Byte) (s : State) : Host.Outcome State Fault Refusal :=
  .next (rmwInstr rorFn Cpu.result (.zpx z) s)

/-- `ROR a,X`, opcode `$7E` (R253). -/
def execRorAbx (a : Word) (s : State) : Host.Outcome State Fault Refusal :=
  .next (rmwInstr rorFn Cpu.result (.abx a) s)

/-- `INC z`, opcode `$E6` (R254). -/
def execIncZp (z : Byte) (s : State) : Host.Outcome State Fault Refusal :=
  .next (rmwInstr incFn Cpu.result (.zp z) s)

/-- `INC a`, opcode `$EE` (R254). -/
def execIncAbs (a : Word) (s : State) : Host.Outcome State Fault Refusal :=
  .next (rmwInstr incFn Cpu.result (.abs a) s)

/-- `INC z,X`, opcode `$F6` (R254). -/
def execIncZpx (z : Byte) (s : State) : Host.Outcome State Fault Refusal :=
  .next (rmwInstr incFn Cpu.result (.zpx z) s)

/-- `INC a,X`, opcode `$FE` (R254). -/
def execIncAbx (a : Word) (s : State) : Host.Outcome State Fault Refusal :=
  .next (rmwInstr incFn Cpu.result (.abx a) s)

/-- `DEC z`, opcode `$C6` (R255). -/
def execDecZp (z : Byte) (s : State) : Host.Outcome State Fault Refusal :=
  .next (rmwInstr decFn Cpu.result (.zp z) s)

/-- `DEC a`, opcode `$CE` (R255). -/
def execDecAbs (a : Word) (s : State) : Host.Outcome State Fault Refusal :=
  .next (rmwInstr decFn Cpu.result (.abs a) s)

/-- `DEC z,X`, opcode `$D6` (R255). -/
def execDecZpx (z : Byte) (s : State) : Host.Outcome State Fault Refusal :=
  .next (rmwInstr decFn Cpu.result (.zpx z) s)

/-- `DEC a,X`, opcode `$DE` (R255). -/
def execDecAbx (a : Word) (s : State) : Host.Outcome State Fault Refusal :=
  .next (rmwInstr decFn Cpu.result (.abx a) s)

end Sys2Proof.Machine
end

