-- ==== Sys2Proof/Machine/System.lean ====
section
/-! DEFINITION. The meanings of the stack, flag and system instructions (spec file 45). -/

namespace Sys2Proof.Machine

/-! ### Stack (45, R280 to R283) -/

/-- `PHA`, opcode `$48` (R280). -/
def execPha (s : State) : Host.Outcome State Fault Refusal :=
  let t := dummyPc s
  .next (push t.cpu.a t)

/-- `PHP`, opcode `$08` (R281). -/
def execPhp (s : State) : Host.Outcome State Fault Refusal :=
  let t := dummyPc s
  .next (push (t.cpu.p.toByte true) t)

/-- `PLA`, opcode `$68` (R282). -/
def execPla (s : State) : Host.Outcome State Fault Refusal :=
  match pull (dummyStack (dummyPc s)) with
  | (v, t) => .next (t.setCpu (t.cpu.lda v))

/-- `PLP`, opcode `$28` (R283). -/
def execPlp (s : State) : Host.Outcome State Fault Refusal :=
  match pull (dummyStack (dummyPc s)) with
  | (v, t) => .next (t.setP (Flags.ofByte v))

/-! ### Flag set and clear, no operation (45, R284 to R291) -/

/-- `CLC`, opcode `$18` (R284). -/
def execClc (s : State) : Host.Outcome State Fault Refusal :=
  .next (impliedInstr Cpu.clc s)

/-- `SEC`, opcode `$38` (R285). -/
def execSec (s : State) : Host.Outcome State Fault Refusal :=
  .next (impliedInstr Cpu.sec s)

/-- `CLI`, opcode `$58` (R286). -/
def execCli (s : State) : Host.Outcome State Fault Refusal :=
  .next (impliedInstr Cpu.cli s)

/-- `SEI`, opcode `$78` (R287). -/
def execSei (s : State) : Host.Outcome State Fault Refusal :=
  .next (impliedInstr Cpu.sei s)

/-- `CLD`, opcode `$D8` (R288). -/
def execCld (s : State) : Host.Outcome State Fault Refusal :=
  .next (impliedInstr Cpu.cld s)

/-- `SED`, opcode `$F8` (R289). -/
def execSed (s : State) : Host.Outcome State Fault Refusal :=
  .next (impliedInstr Cpu.sed s)

/-- `CLV`, opcode `$B8` (R290). -/
def execClv (s : State) : Host.Outcome State Fault Refusal :=
  .next (impliedInstr Cpu.clv s)

/-- `NOP`, opcode `$EA` (R291). -/
def execNop (s : State) : Host.Outcome State Fault Refusal :=
  .next (impliedInstr Cpu.nop s)

/-! ### Software interrupt and return (45, R292, R293) -/

/-- `BRK`, opcode `$00` (R292). The padding byte is read and skipped. -/
def execBrk (s : State) : Host.Outcome State Fault Refusal :=
  let t := dummyPc s
  .next (takeException true (t.setPc (t.cpu.pc + 1)))

/-- `RTI`, opcode `$40` (R293). -/
def execRti (s : State) : Host.Outcome State Fault Refusal :=
  .next (returnFromException s)

end Sys2Proof.Machine
end

