-- ==== Sys2Proof/Machine/Unstable.lean ====
section
/-! DEFINITION. The meanings of the unstable and undispatchable opcodes (spec file 46, parts 3 and 4). -/

namespace Sys2Proof.Machine

/-! ### Unstable opcodes (46, R316 to R321) -/

/-- `*LXA #v`, opcode `$AB` (R316). -/
def execLxaImm (v : Byte) (s : State) : Host.Outcome State Fault Refusal :=
  .next ((s.setCpu (lxaCpu s.draws v s.cpu)).drawn)

/-- `*XAA #v`, opcode `$8B` (R317). -/
def execXaaImm (v : Byte) (s : State) : Host.Outcome State Fault Refusal :=
  .next ((s.setCpu (xaaCpu s.draws v s.cpu)).drawn)

/-- `*SHA (z),Y`, opcode `$93` (R318). -/
def execShaIzy (z : Byte) (s : State) : Host.Outcome State Fault Refusal :=
  match zpPointer z s with
  | (base, t) => .next (storeUnstable (t.cpu.a &&& t.cpu.x) base t.cpu.y t)

/-- `*SHA a,Y`, opcode `$9F` (R318). -/
def execShaAby (a : Word) (s : State) : Host.Outcome State Fault Refusal :=
  .next (storeUnstable (s.cpu.a &&& s.cpu.x) a s.cpu.y s)

/-- `*SHX a,Y`, opcode `$9E` (R319). -/
def execShxAby (a : Word) (s : State) : Host.Outcome State Fault Refusal :=
  .next (storeUnstable s.cpu.x a s.cpu.y s)

/-- `*SHY a,X`, opcode `$9C` (R320). -/
def execShyAbx (a : Word) (s : State) : Host.Outcome State Fault Refusal :=
  .next (storeUnstable s.cpu.y a s.cpu.x s)

/-- `*TAS a,Y`, opcode `$9B` (R321). `S` first, then the store. -/
def execTasAby (a : Word) (s : State) : Host.Outcome State Fault Refusal :=
  let t := s.setSp (s.cpu.a &&& s.cpu.x)
  .next (storeUnstable t.cpu.sp a t.cpu.y t)

/-! ### Undispatchable opcodes (46, R322) -/

/-- `raise Fault(UndispatchableOpcode, opcode, PC - 1)`: the opcode has been fetched, nothing more happens, and the machine has no further step (R322, R341, R344). -/
def raiseJam (opcode : Byte) (s : State) : State := { s with fault := some (.undispatchableOpcode opcode (s.cpu.pc - 1)) }

/-- `*JAM`, opcode `$02` (R322). -/
def execJam02 (s : State) : Host.Outcome State Fault Refusal :=
  .next (raiseJam 0x02 s)

/-- `*JAM`, opcode `$12` (R322). -/
def execJam12 (s : State) : Host.Outcome State Fault Refusal :=
  .next (raiseJam 0x12 s)

/-- `*JAM`, opcode `$22` (R322). -/
def execJam22 (s : State) : Host.Outcome State Fault Refusal :=
  .next (raiseJam 0x22 s)

/-- `*JAM`, opcode `$32` (R322). -/
def execJam32 (s : State) : Host.Outcome State Fault Refusal :=
  .next (raiseJam 0x32 s)

/-- `*JAM`, opcode `$42` (R322). -/
def execJam42 (s : State) : Host.Outcome State Fault Refusal :=
  .next (raiseJam 0x42 s)

/-- `*JAM`, opcode `$52` (R322). -/
def execJam52 (s : State) : Host.Outcome State Fault Refusal :=
  .next (raiseJam 0x52 s)

/-- `*JAM`, opcode `$62` (R322). -/
def execJam62 (s : State) : Host.Outcome State Fault Refusal :=
  .next (raiseJam 0x62 s)

/-- `*JAM`, opcode `$72` (R322). -/
def execJam72 (s : State) : Host.Outcome State Fault Refusal :=
  .next (raiseJam 0x72 s)

/-- `*JAM`, opcode `$92` (R322). -/
def execJam92 (s : State) : Host.Outcome State Fault Refusal :=
  .next (raiseJam 0x92 s)

/-- `*JAM`, opcode `$B2` (R322). -/
def execJamB2 (s : State) : Host.Outcome State Fault Refusal :=
  .next (raiseJam 0xB2 s)

/-- `*JAM`, opcode `$D2` (R322). -/
def execJamD2 (s : State) : Host.Outcome State Fault Refusal :=
  .next (raiseJam 0xD2 s)

/-- `*JAM`, opcode `$F2` (R322). -/
def execJamF2 (s : State) : Host.Outcome State Fault Refusal :=
  .next (raiseJam 0xF2 s)

end Sys2Proof.Machine
end

