-- ==== Sys2Proof/WellFormed.lean ====
section
/-! DEFINITION. Well-formedness: of instructions (every term is one) and of launch parameters. -/

namespace Sys2Proof

/-- Every term of `Instr` is well formed: the operands have the widths of R131 by their types, no opcode value is reserved and no operand value is (R133, R136). -/
def Instr.wf (_i : Instr) : Bool := true

/-- The ranges R9, R472 and R474 give the launch parameters; `PPU_OFFSET`'s range 0..3 is in its type.
The sample rate is positive and the filter coefficient lies strictly between 0 and 1. -/
def Config.wf (c : Config) : Bool :=
  decide (0 < c.sampleRateHz) && decide (0 < c.dcFilterCoeff) && decide (c.dcFilterCoeff < 1)

end Sys2Proof
end

