-- ==== Sys2Proof/Decode.lean ====
section
/-! DEFINITION. The decoder, a 256-entry table (R130, R134), total on any bytes, and the encoder written from the same table. -/

namespace Sys2Proof

open Sys2Proof.Machine

/-- Row 0x of the opcode map (R134). -/
def decodeRow0 (low : Nat) (b1 b2 : Byte) : Instr :=
  match low with
  | 0 => .brk
  | 1 => .oraIzx b1
  | 2 => .jam02
  | 3 => .sloIzx b1
  | 4 => .nopZp04 b1
  | 5 => .oraZp b1
  | 6 => .aslZp b1
  | 7 => .sloZp b1
  | 8 => .php
  | 9 => .oraImm b1
  | 10 => .aslAcc
  | 11 => .ancImm0B b1
  | 12 => .nopAbs0C (word b2 b1)
  | 13 => .oraAbs (word b2 b1)
  | 14 => .aslAbs (word b2 b1)
  | _ => .sloAbs (word b2 b1)

/-- Row 1x of the opcode map (R134). -/
def decodeRow1 (low : Nat) (b1 b2 : Byte) : Instr :=
  match low with
  | 0 => .bpl b1
  | 1 => .oraIzy b1
  | 2 => .jam12
  | 3 => .sloIzy b1
  | 4 => .nopZpx14 b1
  | 5 => .oraZpx b1
  | 6 => .aslZpx b1
  | 7 => .sloZpx b1
  | 8 => .clc
  | 9 => .oraAby (word b2 b1)
  | 10 => .nopImp1A
  | 11 => .sloAby (word b2 b1)
  | 12 => .nopAbx1C (word b2 b1)
  | 13 => .oraAbx (word b2 b1)
  | 14 => .aslAbx (word b2 b1)
  | _ => .sloAbx (word b2 b1)

/-- Row 2x of the opcode map (R134). -/
def decodeRow2 (low : Nat) (b1 b2 : Byte) : Instr :=
  match low with
  | 0 => .jsr (word b2 b1)
  | 1 => .andIzx b1
  | 2 => .jam22
  | 3 => .rlaIzx b1
  | 4 => .bitZp b1
  | 5 => .andZp b1
  | 6 => .rolZp b1
  | 7 => .rlaZp b1
  | 8 => .plp
  | 9 => .andImm b1
  | 10 => .rolAcc
  | 11 => .ancImm2B b1
  | 12 => .bitAbs (word b2 b1)
  | 13 => .andAbs (word b2 b1)
  | 14 => .rolAbs (word b2 b1)
  | _ => .rlaAbs (word b2 b1)

/-- Row 3x of the opcode map (R134). -/
def decodeRow3 (low : Nat) (b1 b2 : Byte) : Instr :=
  match low with
  | 0 => .bmi b1
  | 1 => .andIzy b1
  | 2 => .jam32
  | 3 => .rlaIzy b1
  | 4 => .nopZpx34 b1
  | 5 => .andZpx b1
  | 6 => .rolZpx b1
  | 7 => .rlaZpx b1
  | 8 => .sec
  | 9 => .andAby (word b2 b1)
  | 10 => .nopImp3A
  | 11 => .rlaAby (word b2 b1)
  | 12 => .nopAbx3C (word b2 b1)
  | 13 => .andAbx (word b2 b1)
  | 14 => .rolAbx (word b2 b1)
  | _ => .rlaAbx (word b2 b1)

/-- Row 4x of the opcode map (R134). -/
def decodeRow4 (low : Nat) (b1 b2 : Byte) : Instr :=
  match low with
  | 0 => .rti
  | 1 => .eorIzx b1
  | 2 => .jam42
  | 3 => .sreIzx b1
  | 4 => .nopZp44 b1
  | 5 => .eorZp b1
  | 6 => .lsrZp b1
  | 7 => .sreZp b1
  | 8 => .pha
  | 9 => .eorImm b1
  | 10 => .lsrAcc
  | 11 => .alrImm b1
  | 12 => .jmpAbs (word b2 b1)
  | 13 => .eorAbs (word b2 b1)
  | 14 => .lsrAbs (word b2 b1)
  | _ => .sreAbs (word b2 b1)

/-- Row 5x of the opcode map (R134). -/
def decodeRow5 (low : Nat) (b1 b2 : Byte) : Instr :=
  match low with
  | 0 => .bvc b1
  | 1 => .eorIzy b1
  | 2 => .jam52
  | 3 => .sreIzy b1
  | 4 => .nopZpx54 b1
  | 5 => .eorZpx b1
  | 6 => .lsrZpx b1
  | 7 => .sreZpx b1
  | 8 => .cli
  | 9 => .eorAby (word b2 b1)
  | 10 => .nopImp5A
  | 11 => .sreAby (word b2 b1)
  | 12 => .nopAbx5C (word b2 b1)
  | 13 => .eorAbx (word b2 b1)
  | 14 => .lsrAbx (word b2 b1)
  | _ => .sreAbx (word b2 b1)

/-- Row 6x of the opcode map (R134). -/
def decodeRow6 (low : Nat) (b1 b2 : Byte) : Instr :=
  match low with
  | 0 => .rts
  | 1 => .adcIzx b1
  | 2 => .jam62
  | 3 => .rraIzx b1
  | 4 => .nopZp64 b1
  | 5 => .adcZp b1
  | 6 => .rorZp b1
  | 7 => .rraZp b1
  | 8 => .pla
  | 9 => .adcImm b1
  | 10 => .rorAcc
  | 11 => .arrImm b1
  | 12 => .jmpInd (word b2 b1)
  | 13 => .adcAbs (word b2 b1)
  | 14 => .rorAbs (word b2 b1)
  | _ => .rraAbs (word b2 b1)

/-- Row 7x of the opcode map (R134). -/
def decodeRow7 (low : Nat) (b1 b2 : Byte) : Instr :=
  match low with
  | 0 => .bvs b1
  | 1 => .adcIzy b1
  | 2 => .jam72
  | 3 => .rraIzy b1
  | 4 => .nopZpx74 b1
  | 5 => .adcZpx b1
  | 6 => .rorZpx b1
  | 7 => .rraZpx b1
  | 8 => .sei
  | 9 => .adcAby (word b2 b1)
  | 10 => .nopImp7A
  | 11 => .rraAby (word b2 b1)
  | 12 => .nopAbx7C (word b2 b1)
  | 13 => .adcAbx (word b2 b1)
  | 14 => .rorAbx (word b2 b1)
  | _ => .rraAbx (word b2 b1)

/-- Row 8x of the opcode map (R134). -/
def decodeRow8 (low : Nat) (b1 b2 : Byte) : Instr :=
  match low with
  | 0 => .nopImm80 b1
  | 1 => .staIzx b1
  | 2 => .nopImm82 b1
  | 3 => .saxIzx b1
  | 4 => .styZp b1
  | 5 => .staZp b1
  | 6 => .stxZp b1
  | 7 => .saxZp b1
  | 8 => .dey
  | 9 => .nopImm89 b1
  | 10 => .txa
  | 11 => .xaaImm b1
  | 12 => .styAbs (word b2 b1)
  | 13 => .staAbs (word b2 b1)
  | 14 => .stxAbs (word b2 b1)
  | _ => .saxAbs (word b2 b1)

/-- Row 9x of the opcode map (R134). -/
def decodeRow9 (low : Nat) (b1 b2 : Byte) : Instr :=
  match low with
  | 0 => .bcc b1
  | 1 => .staIzy b1
  | 2 => .jam92
  | 3 => .shaIzy b1
  | 4 => .styZpx b1
  | 5 => .staZpx b1
  | 6 => .stxZpy b1
  | 7 => .saxZpy b1
  | 8 => .tya
  | 9 => .staAby (word b2 b1)
  | 10 => .txs
  | 11 => .tasAby (word b2 b1)
  | 12 => .shyAbx (word b2 b1)
  | 13 => .staAbx (word b2 b1)
  | 14 => .shxAby (word b2 b1)
  | _ => .shaAby (word b2 b1)

/-- Row Ax of the opcode map (R134). -/
def decodeRowA (low : Nat) (b1 b2 : Byte) : Instr :=
  match low with
  | 0 => .ldyImm b1
  | 1 => .ldaIzx b1
  | 2 => .ldxImm b1
  | 3 => .laxIzx b1
  | 4 => .ldyZp b1
  | 5 => .ldaZp b1
  | 6 => .ldxZp b1
  | 7 => .laxZp b1
  | 8 => .tay
  | 9 => .ldaImm b1
  | 10 => .tax
  | 11 => .lxaImm b1
  | 12 => .ldyAbs (word b2 b1)
  | 13 => .ldaAbs (word b2 b1)
  | 14 => .ldxAbs (word b2 b1)
  | _ => .laxAbs (word b2 b1)

/-- Row Bx of the opcode map (R134). -/
def decodeRowB (low : Nat) (b1 b2 : Byte) : Instr :=
  match low with
  | 0 => .bcs b1
  | 1 => .ldaIzy b1
  | 2 => .jamB2
  | 3 => .laxIzy b1
  | 4 => .ldyZpx b1
  | 5 => .ldaZpx b1
  | 6 => .ldxZpy b1
  | 7 => .laxZpy b1
  | 8 => .clv
  | 9 => .ldaAby (word b2 b1)
  | 10 => .tsx
  | 11 => .lasAby (word b2 b1)
  | 12 => .ldyAbx (word b2 b1)
  | 13 => .ldaAbx (word b2 b1)
  | 14 => .ldxAby (word b2 b1)
  | _ => .laxAby (word b2 b1)

/-- Row Cx of the opcode map (R134). -/
def decodeRowC (low : Nat) (b1 b2 : Byte) : Instr :=
  match low with
  | 0 => .cpyImm b1
  | 1 => .cmpIzx b1
  | 2 => .nopImmC2 b1
  | 3 => .dcpIzx b1
  | 4 => .cpyZp b1
  | 5 => .cmpZp b1
  | 6 => .decZp b1
  | 7 => .dcpZp b1
  | 8 => .iny
  | 9 => .cmpImm b1
  | 10 => .dex
  | 11 => .axsImm b1
  | 12 => .cpyAbs (word b2 b1)
  | 13 => .cmpAbs (word b2 b1)
  | 14 => .decAbs (word b2 b1)
  | _ => .dcpAbs (word b2 b1)

/-- Row Dx of the opcode map (R134). -/
def decodeRowD (low : Nat) (b1 b2 : Byte) : Instr :=
  match low with
  | 0 => .bne b1
  | 1 => .cmpIzy b1
  | 2 => .jamD2
  | 3 => .dcpIzy b1
  | 4 => .nopZpxD4 b1
  | 5 => .cmpZpx b1
  | 6 => .decZpx b1
  | 7 => .dcpZpx b1
  | 8 => .cld
  | 9 => .cmpAby (word b2 b1)
  | 10 => .nopImpDA
  | 11 => .dcpAby (word b2 b1)
  | 12 => .nopAbxDC (word b2 b1)
  | 13 => .cmpAbx (word b2 b1)
  | 14 => .decAbx (word b2 b1)
  | _ => .dcpAbx (word b2 b1)

/-- Row Ex of the opcode map (R134). -/
def decodeRowE (low : Nat) (b1 b2 : Byte) : Instr :=
  match low with
  | 0 => .cpxImm b1
  | 1 => .sbcIzx b1
  | 2 => .nopImmE2 b1
  | 3 => .isbIzx b1
  | 4 => .cpxZp b1
  | 5 => .sbcZp b1
  | 6 => .incZp b1
  | 7 => .isbZp b1
  | 8 => .inx
  | 9 => .sbcImm b1
  | 10 => .nop
  | 11 => .sbcImmEB b1
  | 12 => .cpxAbs (word b2 b1)
  | 13 => .sbcAbs (word b2 b1)
  | 14 => .incAbs (word b2 b1)
  | _ => .isbAbs (word b2 b1)

/-- Row Fx of the opcode map (R134). -/
def decodeRowF (low : Nat) (b1 b2 : Byte) : Instr :=
  match low with
  | 0 => .beq b1
  | 1 => .sbcIzy b1
  | 2 => .jamF2
  | 3 => .isbIzy b1
  | 4 => .nopZpxF4 b1
  | 5 => .sbcZpx b1
  | 6 => .incZpx b1
  | 7 => .isbZpx b1
  | 8 => .sed
  | 9 => .sbcAby (word b2 b1)
  | 10 => .nopImpFA
  | 11 => .isbAby (word b2 b1)
  | 12 => .nopAbxFC (word b2 b1)
  | 13 => .sbcAbx (word b2 b1)
  | 14 => .incAbx (word b2 b1)
  | _ => .isbAbx (word b2 b1)

/-- The instruction that opcode `op` and the operand bytes `b1`, `b2` stand for (R130, R134): total, every opcode value has one (R136). -/
def decodeOp (op b1 b2 : Byte) : Instr :=
  match op.toNat / 16 with
  | 0 => decodeRow0 (op.toNat % 16) b1 b2
  | 1 => decodeRow1 (op.toNat % 16) b1 b2
  | 2 => decodeRow2 (op.toNat % 16) b1 b2
  | 3 => decodeRow3 (op.toNat % 16) b1 b2
  | 4 => decodeRow4 (op.toNat % 16) b1 b2
  | 5 => decodeRow5 (op.toNat % 16) b1 b2
  | 6 => decodeRow6 (op.toNat % 16) b1 b2
  | 7 => decodeRow7 (op.toNat % 16) b1 b2
  | 8 => decodeRow8 (op.toNat % 16) b1 b2
  | 9 => decodeRow9 (op.toNat % 16) b1 b2
  | 10 => decodeRowA (op.toNat % 16) b1 b2
  | 11 => decodeRowB (op.toNat % 16) b1 b2
  | 12 => decodeRowC (op.toNat % 16) b1 b2
  | 13 => decodeRowD (op.toNat % 16) b1 b2
  | 14 => decodeRowE (op.toNat % 16) b1 b2
  | _ => decodeRowF (op.toNat % 16) b1 b2

/-- The number of bytes of the instruction whose first byte is `op`: the length of its format, which the opcode alone decides (R131, R137). -/
def opLength (op : Byte) : Nat :=
  match op.toNat % 16 with
  | 0 =>
    match op.toNat / 16 with
    | 0 | 4 | 6 => 1
    | 2 => 3
    | _ => 2
  | 2 =>
    match op.toNat / 16 with
    | 8 | 10 | 12 | 14 => 2
    | _ => 1
  | 8 | 10 => 1
  | 9 | 11 => if op.toNat / 16 % 2 = 0 then 2 else 3
  | 12 | 13 | 14 | 15 => 3
  | _ => 2

/-- Why a byte string is no instruction: the only way is to end too early. -/
inductive DecodeError where
  /-- no byte at all -/
  | noOpcode
  /-- fewer operand bytes than the opcode's format has (R131) -/
  | truncated (opcode : Byte)
  deriving DecidableEq, Repr

/-- Decode one instruction from a byte string and answer it with the bytes that follow it (R130, R131). -/
def decode (bytes : List Byte) : Except DecodeError (Instr × List Byte) :=
  match bytes with
  | [] => .error .noOpcode
  | op :: rest =>
    match opLength op, rest with
    | 1, _ => .ok (decodeOp op 0 0, rest)
    | 2, b1 :: rest1 => .ok (decodeOp op b1 0, rest1)
    | 3, b1 :: b2 :: rest2 => .ok (decodeOp op b1 b2, rest2)
    | _, _ => .error (.truncated op)

/-- The bytes of an instruction, in ascending address order, low operand byte before high operand byte (R110, R131). -/
def encode (i : Instr) : List Byte :=
  match i with
  -- Loads (41, R190 to R192)
  | .ldaIzx z => [0xA1, z]
  | .ldaZp z => [0xA5, z]
  | .ldaImm v => [0xA9, v]
  | .ldaAbs a => [0xAD, lo a, hi a]
  | .ldaIzy z => [0xB1, z]
  | .ldaZpx z => [0xB5, z]
  | .ldaAby a => [0xB9, lo a, hi a]
  | .ldaAbx a => [0xBD, lo a, hi a]
  | .ldxImm v => [0xA2, v]
  | .ldxZp z => [0xA6, z]
  | .ldxAbs a => [0xAE, lo a, hi a]
  | .ldxZpy z => [0xB6, z]
  | .ldxAby a => [0xBE, lo a, hi a]
  | .ldyImm v => [0xA0, v]
  | .ldyZp z => [0xA4, z]
  | .ldyAbs a => [0xAC, lo a, hi a]
  | .ldyZpx z => [0xB4, z]
  | .ldyAbx a => [0xBC, lo a, hi a]
  -- Stores (41, R193 to R195)
  | .staIzx z => [0x81, z]
  | .staZp z => [0x85, z]
  | .staAbs a => [0x8D, lo a, hi a]
  | .staIzy z => [0x91, z]
  | .staZpx z => [0x95, z]
  | .staAby a => [0x99, lo a, hi a]
  | .staAbx a => [0x9D, lo a, hi a]
  | .stxZp z => [0x86, z]
  | .stxAbs a => [0x8E, lo a, hi a]
  | .stxZpy z => [0x96, z]
  | .styZp z => [0x84, z]
  | .styAbs a => [0x8C, lo a, hi a]
  | .styZpx z => [0x94, z]
  -- Register transfers (41, R196 to R201)
  | .tax => [0xAA]
  | .tay => [0xA8]
  | .txa => [0x8A]
  | .tya => [0x98]
  | .tsx => [0xBA]
  | .txs => [0x9A]
  -- Add and subtract (42, R220, R221)
  | .adcIzx z => [0x61, z]
  | .adcZp z => [0x65, z]
  | .adcImm v => [0x69, v]
  | .adcAbs a => [0x6D, lo a, hi a]
  | .adcIzy z => [0x71, z]
  | .adcZpx z => [0x75, z]
  | .adcAby a => [0x79, lo a, hi a]
  | .adcAbx a => [0x7D, lo a, hi a]
  | .sbcIzx z => [0xE1, z]
  | .sbcZp z => [0xE5, z]
  | .sbcImm v => [0xE9, v]
  | .sbcAbs a => [0xED, lo a, hi a]
  | .sbcIzy z => [0xF1, z]
  | .sbcZpx z => [0xF5, z]
  | .sbcAby a => [0xF9, lo a, hi a]
  | .sbcAbx a => [0xFD, lo a, hi a]
  -- Logic (42, R222 to R224)
  | .andIzx z => [0x21, z]
  | .andZp z => [0x25, z]
  | .andImm v => [0x29, v]
  | .andAbs a => [0x2D, lo a, hi a]
  | .andIzy z => [0x31, z]
  | .andZpx z => [0x35, z]
  | .andAby a => [0x39, lo a, hi a]
  | .andAbx a => [0x3D, lo a, hi a]
  | .oraIzx z => [0x01, z]
  | .oraZp z => [0x05, z]
  | .oraImm v => [0x09, v]
  | .oraAbs a => [0x0D, lo a, hi a]
  | .oraIzy z => [0x11, z]
  | .oraZpx z => [0x15, z]
  | .oraAby a => [0x19, lo a, hi a]
  | .oraAbx a => [0x1D, lo a, hi a]
  | .eorIzx z => [0x41, z]
  | .eorZp z => [0x45, z]
  | .eorImm v => [0x49, v]
  | .eorAbs a => [0x4D, lo a, hi a]
  | .eorIzy z => [0x51, z]
  | .eorZpx z => [0x55, z]
  | .eorAby a => [0x59, lo a, hi a]
  | .eorAbx a => [0x5D, lo a, hi a]
  -- Compare and bit test (42, R225 to R228)
  | .cmpIzx z => [0xC1, z]
  | .cmpZp z => [0xC5, z]
  | .cmpImm v => [0xC9, v]
  | .cmpAbs a => [0xCD, lo a, hi a]
  | .cmpIzy z => [0xD1, z]
  | .cmpZpx z => [0xD5, z]
  | .cmpAby a => [0xD9, lo a, hi a]
  | .cmpAbx a => [0xDD, lo a, hi a]
  | .cpxImm v => [0xE0, v]
  | .cpxZp z => [0xE4, z]
  | .cpxAbs a => [0xEC, lo a, hi a]
  | .cpyImm v => [0xC0, v]
  | .cpyZp z => [0xC4, z]
  | .cpyAbs a => [0xCC, lo a, hi a]
  | .bitZp z => [0x24, z]
  | .bitAbs a => [0x2C, lo a, hi a]
  -- Register increment and decrement (42, R231 to R234)
  | .inx => [0xE8]
  | .iny => [0xC8]
  | .dex => [0xCA]
  | .dey => [0x88]
  -- Shifts, rotates, memory increment and decrement (43, R250 to R255)
  | .aslZp z => [0x06, z]
  | .aslAcc => [0x0A]
  | .aslAbs a => [0x0E, lo a, hi a]
  | .aslZpx z => [0x16, z]
  | .aslAbx a => [0x1E, lo a, hi a]
  | .lsrZp z => [0x46, z]
  | .lsrAcc => [0x4A]
  | .lsrAbs a => [0x4E, lo a, hi a]
  | .lsrZpx z => [0x56, z]
  | .lsrAbx a => [0x5E, lo a, hi a]
  | .rolZp z => [0x26, z]
  | .rolAcc => [0x2A]
  | .rolAbs a => [0x2E, lo a, hi a]
  | .rolZpx z => [0x36, z]
  | .rolAbx a => [0x3E, lo a, hi a]
  | .rorZp z => [0x66, z]
  | .rorAcc => [0x6A]
  | .rorAbs a => [0x6E, lo a, hi a]
  | .rorZpx z => [0x76, z]
  | .rorAbx a => [0x7E, lo a, hi a]
  | .incZp z => [0xE6, z]
  | .incAbs a => [0xEE, lo a, hi a]
  | .incZpx z => [0xF6, z]
  | .incAbx a => [0xFE, lo a, hi a]
  | .decZp z => [0xC6, z]
  | .decAbs a => [0xCE, lo a, hi a]
  | .decZpx z => [0xD6, z]
  | .decAbx a => [0xDE, lo a, hi a]
  -- Jumps, subroutines (44, R260 to R263)
  | .jmpAbs a => [0x4C, lo a, hi a]
  | .jmpInd a => [0x6C, lo a, hi a]
  | .jsr a => [0x20, lo a, hi a]
  | .rts => [0x60]
  -- Conditional branches (44, R265 to R272)
  | .bcc d => [0x90, d]
  | .bcs d => [0xB0, d]
  | .beq d => [0xF0, d]
  | .bne d => [0xD0, d]
  | .bmi d => [0x30, d]
  | .bpl d => [0x10, d]
  | .bvc d => [0x50, d]
  | .bvs d => [0x70, d]
  -- Stack (45, R280 to R283)
  | .pha => [0x48]
  | .php => [0x08]
  | .pla => [0x68]
  | .plp => [0x28]
  -- Flag set and clear, no operation (45, R284 to R291)
  | .clc => [0x18]
  | .sec => [0x38]
  | .cli => [0x58]
  | .sei => [0x78]
  | .cld => [0xD8]
  | .sed => [0xF8]
  | .clv => [0xB8]
  | .nop => [0xEA]
  -- Software interrupt and return (45, R292, R293)
  | .brk => [0x00]
  | .rti => [0x40]
  -- Illegal no-operation forms (46, R301)
  | .nopZp04 z => [0x04, z]
  | .nopAbs0C a => [0x0C, lo a, hi a]
  | .nopZpx14 z => [0x14, z]
  | .nopImp1A => [0x1A]
  | .nopAbx1C a => [0x1C, lo a, hi a]
  | .nopZpx34 z => [0x34, z]
  | .nopImp3A => [0x3A]
  | .nopAbx3C a => [0x3C, lo a, hi a]
  | .nopZp44 z => [0x44, z]
  | .nopZpx54 z => [0x54, z]
  | .nopImp5A => [0x5A]
  | .nopAbx5C a => [0x5C, lo a, hi a]
  | .nopZp64 z => [0x64, z]
  | .nopZpx74 z => [0x74, z]
  | .nopImp7A => [0x7A]
  | .nopAbx7C a => [0x7C, lo a, hi a]
  | .nopImm80 v => [0x80, v]
  | .nopImm82 v => [0x82, v]
  | .nopImm89 v => [0x89, v]
  | .nopImmC2 v => [0xC2, v]
  | .nopZpxD4 z => [0xD4, z]
  | .nopImpDA => [0xDA]
  | .nopAbxDC a => [0xDC, lo a, hi a]
  | .nopImmE2 v => [0xE2, v]
  | .nopZpxF4 z => [0xF4, z]
  | .nopImpFA => [0xFA]
  | .nopAbxFC a => [0xFC, lo a, hi a]
  -- Stable illegal loads, stores and the duplicate SBC (46, R302 to R304)
  | .laxIzx z => [0xA3, z]
  | .laxZp z => [0xA7, z]
  | .laxAbs a => [0xAF, lo a, hi a]
  | .laxIzy z => [0xB3, z]
  | .laxZpy z => [0xB7, z]
  | .laxAby a => [0xBF, lo a, hi a]
  | .saxIzx z => [0x83, z]
  | .saxZp z => [0x87, z]
  | .saxAbs a => [0x8F, lo a, hi a]
  | .saxZpy z => [0x97, z]
  | .sbcImmEB v => [0xEB, v]
  -- Stable illegal read-modify-write forms (46, R305 to R310)
  | .dcpIzx z => [0xC3, z]
  | .dcpZp z => [0xC7, z]
  | .dcpAbs a => [0xCF, lo a, hi a]
  | .dcpIzy z => [0xD3, z]
  | .dcpZpx z => [0xD7, z]
  | .dcpAby a => [0xDB, lo a, hi a]
  | .dcpAbx a => [0xDF, lo a, hi a]
  | .isbIzx z => [0xE3, z]
  | .isbZp z => [0xE7, z]
  | .isbAbs a => [0xEF, lo a, hi a]
  | .isbIzy z => [0xF3, z]
  | .isbZpx z => [0xF7, z]
  | .isbAby a => [0xFB, lo a, hi a]
  | .isbAbx a => [0xFF, lo a, hi a]
  | .sloIzx z => [0x03, z]
  | .sloZp z => [0x07, z]
  | .sloAbs a => [0x0F, lo a, hi a]
  | .sloIzy z => [0x13, z]
  | .sloZpx z => [0x17, z]
  | .sloAby a => [0x1B, lo a, hi a]
  | .sloAbx a => [0x1F, lo a, hi a]
  | .rlaIzx z => [0x23, z]
  | .rlaZp z => [0x27, z]
  | .rlaAbs a => [0x2F, lo a, hi a]
  | .rlaIzy z => [0x33, z]
  | .rlaZpx z => [0x37, z]
  | .rlaAby a => [0x3B, lo a, hi a]
  | .rlaAbx a => [0x3F, lo a, hi a]
  | .sreIzx z => [0x43, z]
  | .sreZp z => [0x47, z]
  | .sreAbs a => [0x4F, lo a, hi a]
  | .sreIzy z => [0x53, z]
  | .sreZpx z => [0x57, z]
  | .sreAby a => [0x5B, lo a, hi a]
  | .sreAbx a => [0x5F, lo a, hi a]
  | .rraIzx z => [0x63, z]
  | .rraZp z => [0x67, z]
  | .rraAbs a => [0x6F, lo a, hi a]
  | .rraIzy z => [0x73, z]
  | .rraZpx z => [0x77, z]
  | .rraAby a => [0x7B, lo a, hi a]
  | .rraAbx a => [0x7F, lo a, hi a]
  -- Stable illegal immediates and LAS (46, R311 to R315)
  | .ancImm0B v => [0x0B, v]
  | .ancImm2B v => [0x2B, v]
  | .alrImm v => [0x4B, v]
  | .arrImm v => [0x6B, v]
  | .axsImm v => [0xCB, v]
  | .lasAby a => [0xBB, lo a, hi a]
  -- Unstable opcodes (46, R316 to R321)
  | .lxaImm v => [0xAB, v]
  | .xaaImm v => [0x8B, v]
  | .shaIzy z => [0x93, z]
  | .shaAby a => [0x9F, lo a, hi a]
  | .shxAby a => [0x9E, lo a, hi a]
  | .shyAbx a => [0x9C, lo a, hi a]
  | .tasAby a => [0x9B, lo a, hi a]
  -- Undispatchable opcodes (46, R322)
  | .jam02 => [0x02]
  | .jam12 => [0x12]
  | .jam22 => [0x22]
  | .jam32 => [0x32]
  | .jam42 => [0x42]
  | .jam52 => [0x52]
  | .jam62 => [0x62]
  | .jam72 => [0x72]
  | .jam92 => [0x92]
  | .jamB2 => [0xB2]
  | .jamD2 => [0xD2]
  | .jamF2 => [0xF2]

/-- A byte string is exactly one instruction. -/
def wellFormedBytes (bytes : List Byte) : Bool :=
  match decode bytes with
  | .ok (_, rest) => rest.isEmpty
  | .error _ => false

/-- Byte `k` of a number whose byte 0 is the byte at the lowest address. -/
def byteOfNat (w k : Nat) : Byte := BitVec.ofNat 8 (w / 256 ^ k)

/-- The three bytes, lowest address first, of an instruction of `nbits` bits numbered as spec/opcode_table.json numbers them; bits above `nbits` are 0. -/
def tableBytes (nbits w : Nat) : List Byte :=
  let v := w % 2 ^ nbits
  [byteOfNat v 0, byteOfNat v 1, byteOfNat v 2]

/-- The instruction the decoder reads from a word of the opcode table. -/
def decodeTableWord (nbits w : Nat) : Option Instr :=
  match decode (tableBytes nbits w) with
  | .ok (i, _) => some i
  | .error _ => none

end Sys2Proof
end

