-- ==== Sys2Proof/Machine/Fetch.lean ====
section
/-! DEFINITION. Fetching an instruction: its bus cycles (R160, R162 to R165, R262), the side-effect-free view of an instruction's bytes, and placing an instruction's bytes where the next fetch finds them. -/

namespace Sys2Proof.Machine

/-- `b <- MemRead(PC, 1); PC <- PC + 1` (R160, R162). -/
def fetchByte (s : State) : Byte × State :=
  match memRead s.cpu.pc s with
  | (b, t) => (b, t.setPc (t.cpu.pc + 1))

/-! ### `PeekCpu` (R72) -/

/-- What `CpuBusRead(a)` would return, without changing any state (R72). -/
def peekCpu (a : Word) (s : State) : Byte := (busRead a s).1

/-! ### The operand bytes -/

/-- How many bytes the fetch takes before the instruction's own cycles: the instruction's length, but for `JSR`, whose third byte its last cycle reads (R131, R262), and `BRK`, whose padding byte is its own cycle (R292). -/
def fetchLength (op : Byte) : Nat := if op = 0x20 then 2 else opLength op

/-- Fetch the operand bytes of an instruction of `n` bytes whose opcode has been fetched; a byte the instruction has not is 0. -/
def fetchOperands (n : Nat) (s : State) : Byte × Byte × State :=
  match n with
  | 0 => (0, 0, s)
  | 1 => (0, 0, s)
  | 2 =>
    match fetchByte s with
    | (b1, t) => (b1, 0, t)
  | _ =>
    match fetchByte s with
    | (b1, t) =>
      match fetchByte t with
      | (b2, u) => (b1, b2, u)

/-- Fetch one instruction: the opcode, then the operand bytes, each a full read cycle (R160).
The high operand byte of a `JSR` is looked at without a cycle: the instruction reads it itself, after its pushes (R262). -/
def fetchInstr (s : State) : Instr × State :=
  match fetchByte s with
  | (op, t) =>
    match fetchOperands (fetchLength op) t with
    | (b1, b2, u) => (decodeOp op b1 (if op = 0x20 then peekCpu u.cpu.pc u else b2), u)

/-- The interrupt check after an instruction has retired (R160, R350); none is made on a machine that has just faulted (R341). -/
def retire (s : State) : State :=
  if s.fault.isSome then s
  else if s.int.nmi.active || s.int.irq.active then interruptSequence s
  else s

/-! ### Placing an instruction (for the host's `withFetchWord`) -/

/-- A buffer with byte `v` stored at an offset, writable or not. -/
def Buffers.poke (b : Bank) (off : Nat) (v : Byte) (m : Buffers) : Buffers := m.set b.buf ((m.get b.buf).write off v)

/-- A byte stored where a read of `a` finds it: in work RAM, or in the buffer behind a mapped cartridge bank. -/
def pokeAt (a : Word) (v : Byte) (s : State) : State :=
  if a.toNat < 0x2000 then { s with mem := { s.mem with ram := s.mem.ram.write (a.toNat % 2048) v } }
  else
    match s.cart.cpuSpace.bank a.toNat with
    | some b => { s with mem := s.mem.poke b (b.off + a.toNat % 1024) v }
    | none => s

/-- A read of `a` answers a stored byte: work RAM or a mapped cartridge bank. -/
def storable (s : State) (a : Word) : Bool :=
  decide (a.toNat < 0x2000) || (decide (0x4020 ≤ a.toNat) && (s.cart.cpuSpace.bank a.toNat).isSome)

/-- Bytes stored at consecutive addresses from `a` on. -/
def pokeBytes : List Byte → Word → State → State
  | [], _, s => s
  | b :: rest, a, s => pokeBytes rest (a + 1) (pokeAt a b s)

/-- The address where an instruction is placed: `PC`, or `$0000` if a byte of it would fall where no read answers a stored byte. -/
def placeAddr (s : State) : Word :=
  if storable s s.cpu.pc && storable s (s.cpu.pc + 1) && storable s (s.cpu.pc + 2) then s.cpu.pc else 0

/-- The state in which the next fetch finds `bytes`, and nothing comes before it: no fault, no DMA cycle. -/
def placeInstr (bytes : List Byte) (s : State) : State :=
  let t : State := pokeBytes bytes (placeAddr s) { s with fault := none, dma := { s.dma with haltReq := false } }
  t.setPc (placeAddr s)

end Sys2Proof.Machine
end

