-- ==== Sys2Proof/Machine/Step.lean ====
section
/-! DEFINITION. One step: fetch, execute, and the interrupt check (R160). -/

namespace Sys2Proof.Machine

/-- What follows the instruction's own cycles (R160). -/
def afterExec (o : Host.Outcome State Fault Refusal) : Host.Outcome State Fault Refusal :=
  match o with
  | .next t => .next (retire t)
  | .fault r => .fault r
  | .refused r => .refused r

/-- `Step()` (R160): one instruction, then at most one interrupt sequence.
A faulted machine has no step (R31, R341): the outcome is its fault record. -/
def step (s : State) : Host.Outcome State Fault Refusal :=
  match s.fault with
  | some r => .fault r
  | none =>
    match fetchInstr s with
    | (i, t) => afterExec (exec i t)

/-- `s` with the instruction whose bits are `w` stored where the next step fetches it (log entry 4). -/
def State.withFetchWord (s : State) (nbits w : Nat) : State := placeInstr (tableBytes nbits w) s

end Sys2Proof.Machine
end

