-- ==== Sys2Proof/Machine/HostCalls.lean ====
section
/-! DEFINITION. The host boundary: power-on from a cartridge image, reset, controller input, debugger accesses, running a frame (spec files 60, 63 and 70: R529, R560 to R563, R585). -/

namespace Sys2Proof.Machine

/-! ### The cartridge image (R528, R529) -/

/-- The fields of an iNES header this spec uses (R529). -/
structure Header where
  prgUnits : Nat
  chrUnits : Nat
  vertical : Bool
  battery : Bool
  trainer : Bool
  fourScreen : Bool
  mapperNumber : Nat
  /-- the image is marked NES 2.0 and one of its bytes 8 to 15 is not zero (log entry 13) -/
  extended : Bool
  deriving DecidableEq, Repr

/-- Byte `k` of an image. -/
def imageByte (rom : List Byte) (k : Nat) : Byte := rom.getD k 0

/-- Read the header (R529). -/
def Header.read (rom : List Byte) : Header :=
  let b6 := imageByte rom 6
  let b7 := imageByte rom 7
  { prgUnits := (imageByte rom 4).toNat, chrUnits := (imageByte rom 5).toNat, vertical := b6.getLsbD 0, battery := b6.getLsbD 1,
    trainer := b6.getLsbD 2, fourScreen := b6.getLsbD 3, mapperNumber := b6.toNat / 16 + 16 * (b7.toNat / 16),
    extended := decide (b7.toNat / 4 % 4 = 2) && ((rom.drop 8).take 8).any (fun b => decide (b ≠ 0)) }

/-- Bytes of the trainer (R529). -/
def Header.trainerLen (h : Header) : Nat := if h.trainer then 512 else 0

/-- The length an image with this header must have at least (R529). -/
def Header.imageLen (h : Header) : Nat := 16 + h.trainerLen + 16384 * h.prgUnits + 8192 * h.chrUnits

/-- The mapper a header names, with its registers at their power-on values; `none` is an unsupported number (R528). -/
def mapperOf : Nat → Option Mapper
  | 0 => some .nrom
  | 1 => some (.mmc1 .powerOn)
  | 2 => some (.uxrom 0)
  | 3 => some (.cnrom 0)
  | 4 => some (.mmc3 .powerOn)
  | 7 => some (.axrom 0)
  | _ => none

/-- The header is well formed and the image long enough (R529). -/
def Header.ok (rom : List Byte) (h : Header) : Bool :=
  decide (rom.take 4 = [0x4E, 0x45, 0x53, 0x1A]) && decide (1 ≤ h.prgUnits) && !h.extended && decide (h.imageLen ≤ rom.length)

/-- A memory that holds `bytes` from offset `k` on, in canonical form. -/
def Memory.ofBytes (k : Nat) : List Byte → Memory
  | [] => []
  | b :: rest => if b = Memory.fill then Memory.ofBytes (k + 1) rest else (k, b) :: Memory.ofBytes (k + 1) rest

/-- The launch inputs that R53 leaves unspecified: `RAM_INIT`, `VRAM_INIT`, `OAM_INIT`, `PALETTE_INIT`, the contents of PRG RAM and CHR RAM, and the framebuffer (R9, R560, U1). -/
structure Launch where
  ram : Memory
  vram : Memory
  oam : Memory
  palette : Memory
  prgRam : Memory
  chrRam : Memory
  pixels : Pixels
  deriving DecidableEq, Repr

/-- The launch inputs of `State.reset`: every byte reads as `Memory.fill` (log entry 2). -/
def Launch.blank : Launch := { ram := [], vram := [], oam := [], palette := [], prgRam := [], chrRam := [], pixels := [] }

/-- The trainer of an image, or nothing (R529). -/
def Header.trainerBytes (rom : List Byte) (h : Header) : List Byte := (rom.drop 16).take h.trainerLen

/-- The cartridge a header describes, its tables not yet mapped (R521). -/
def Header.cart (rom : List Byte) (m : Mapper) (h : Header) : Cart :=
  { mapper := m, prgUnits := h.prgUnits, chrUnits := h.chrUnits, headerVertical := h.vertical, headerFourScreen := h.fourScreen,
    battery := h.battery, trainer := h.trainerBytes rom, mirroring := .horizontal, cpuSpace := Space.unmapped 64, ppuSpace := Space.unmapped 16 }

/-- PRG RAM at power-on: the launch's contents with the trainer copied to `PRGRAM[$1000 .. $11FF]` (R529). -/
def Launch.prgRamWith (trainer : List Byte) (l : Launch) : Memory := l.prgRam.load 0x1000 trainer

/-- The backing buffers at power-on (R521, R529): trainer, PRG and CHR from the image, RAM from the launch inputs. -/
def Header.buffers (rom : List Byte) (l : Launch) (h : Header) : Buffers :=
  let body := rom.drop (16 + h.trainerLen)
  let chr := (body.drop (16384 * h.prgUnits)).take (8192 * h.chrUnits)
  { ram := l.ram, vram := l.vram, prg := Memory.ofBytes 0 (body.take (16384 * h.prgUnits)),
    chr := if h.chrUnits = 0 then l.chrRam else Memory.ofBytes 0 chr,
    prgRam := l.prgRamWith (h.trainerBytes rom) }

/-! ### Power-on, reboot, reset (R560 to R563) -/

/-- Every state element at its power-on value, with the notional `S`, `P` and `PC` before the sequence (R53, R560 (2)).
The launch's OAM bytes are taken as they are: an attribute byte keeps bits 4:2 until it is written. DESIGN CHOICE, notes/assumptions/25.md. -/
def powerOnState (cfg : Config) (l : Launch) (c : Cart) (m : Buffers) : State :=
  { cpu := { a := 0, x := 0, y := 0, sp := 0, pc := 0, p := { Flags.powerOn with i := false } },
    clk := { cyc := 0, mclk := 0, ppuClk := 0 },
    int := { nmi := ⟨false, false⟩, irq := ⟨false, false⟩, prevNmiLine := false },
    dbus := 0,
    dma := .powerOn,
    fault := none,
    pads := { strobe := false, buttons0 := 0, buttons1 := 0, shift0 := 0, shift1 := 0 },
    ppu := { Ppu.powerOn with oam := l.oam, palette := l.palette, pixels := l.pixels },
    apu := .powerOn, cart := c, mem := m, cfg := cfg, draws := 0 }

/-- Steps (2) to (4) of power-on: the values, `reload()`, the reset sequence (R560); `none` is a `ConfigError` of the mapping. -/
def powerOn (cfg : Config) (l : Launch) (c : Cart) (m : Buffers) : Option State :=
  match c.remap with
  | some c' => some (resetSequence (powerOnState cfg l c' m))
  | none => none

/-- `initMachine(rom, …)` (R342, R560): a `ConfigError` leaves no machine at all. -/
def initMachine (cfg : Config) (l : Launch) (rom : List Byte) : Except Fault State :=
  let h := Header.read rom
  if h.ok rom then
    match mapperOf h.mapperNumber with
    | some mapper =>
      match powerOn cfg l (h.cart rom mapper) (h.buffers rom l) with
      | some s => .ok s
      | none => .error .configError
    | none => .error .configError
  else .error .configError

/-- `reboot()`: power-on again with the same image, its trainer included, `FAULT` cleared (R563). -/
def reboot (l : Launch) (s : State) : Option State :=
  powerOn s.cfg l { s.cart with mapper := s.cart.mapper.powerOn }
    { ram := l.ram, vram := l.vram, prg := s.mem.prg, chr := if s.cart.chrIsRam then l.chrRam else s.mem.chr, prgRam := l.prgRamWith s.cart.trainer }

/-- The picture processor at a warm reset (R35 to R43, R562). -/
def Ppu.warmReset (p : Ppu) : Ppu :=
  { Ppu.powerOn with
    v := p.v, nmiOccurred := p.nmiOccurred, spriteZeroHit := p.spriteZeroHit, spriteOverflow := p.spriteOverflow, oam := p.oam,
    oamAddr := p.oamAddr, secOam := p.secOam, palette := p.palette, ioLatch := p.ioLatch, pixels := p.pixels }

/-- The state elements at their "reset" values, before the sequence (R30, R53, R562). -/
def resetValues (c : Cart) (s : State) : State :=
  { s with ppu := s.ppu.warmReset, apu := s.apu.warmReset, dma := .powerOn, cart := c }

/-- `reset()`, the warm reset (R562). A faulted machine stays faulted: its `ResetSequence()` performs no cycle (R84), so it is left as it is. -/
def warmReset (s : State) : State :=
  match s.fault, ({ s.cart with mapper := s.cart.mapper.powerOn } : Cart).remap with
  | none, some c => resetSequence (resetValues c s)
  | none, none => { s with fault := some .configError }
  | some _, _ => s

/-! ### Other entry points (R72, R371, R585, R587) -/

/-- `setInputController(buttonMask, pressed)` (R371). -/
def setInputController (mask : Byte) (pressed : Bool) (s : State) : State :=
  { s with pads := { s.pads with buttons0 := if pressed then s.pads.buttons0 ||| mask else s.pads.buttons0 &&& ~~~mask } }

/-- `readMem(a)` without `peek`: `CpuBusRead` without a tick (R72). -/
def readMem (a : Word) (s : State) : Byte × State := busRead a s

/-- `setMem(a, v)` without `peek`: `CpuBusWrite` without a tick (R72). -/
def setMem (a : Word) (v : Byte) (s : State) : State := busWrite a v s

/-- `setMem(a, v)` with `peek`: the byte is stored, nothing else changes (R72). -/
def setMemPeek (a : Word) (v : Byte) (s : State) : State := pokeAt a v s

/-- `reload()` after a state load (R524, R587). -/
def reload (s : State) : Option State :=
  match s.cart.remap with
  | some c => some { s with cart := c }
  | none => none

/-- `stepFrame(breakOnScanlineChange)` for at most `fuel` steps (R585): until `frame` has been incremented, or `scanline` has changed if `perLine`, or `PC` is a breakpoint before a fetch. The Boolean is `hitBreakpoint`.
A breakpoint at `PC` stops it before its first step, and a step that ends the frame answers `false` wherever it lands. DESIGN CHOICE, notes/assumptions/26.md. -/
def stepFrame (breakpoints : List Word) (perLine : Bool) : Nat → State → Host.Outcome State Fault Refusal × Bool
  | 0, s => (.next s, false)
  | fuel + 1, s =>
    if breakpoints.contains s.cpu.pc then (.next s, true)
    else
      match step s with
      | .next t =>
        if decide (t.ppu.frame ≠ s.ppu.frame) || (perLine && decide (t.ppu.scanline ≠ s.ppu.scanline)) then (.next t, false)
        else stepFrame breakpoints perLine fuel t
      | .fault r => (.fault r, false)
      | .refused r => (.refused r, false)

end Sys2Proof.Machine
end

