-- ==== Sys2Proof/Safety.lean ====
section
/-! DEFINITION. The terms in which claims speak of runs: what an instruction leaves alone, effective addresses, the bytes a write reaches, the forms of each mnemonic, cycle counts, and the invariants. -/

namespace Sys2Proof.Machine

/-! ### What an instruction leaves alone -/

/-- A mapper with its interrupt registers at their power-on values: what `Remap` depends on (R527, R540). -/
def Mapper.banks : Mapper → Mapper
  | .mmc3 r => .mmc3 { Mmc3.powerOn with bankSelect := r.bankSelect, regs := r.regs, mirror := r.mirror, ramProtect := r.ramProtect }
  | m => m

/-- A cartridge without what the address-line watch changes (R525, R545). -/
def Cart.bankView (c : Cart) : Cart := c.withMapper c.mapper.banks

/-- What the APU's registers hold that no cycle changes (R455 to R464); the timer periods of the square generators are not among them (the sweep units change them). -/
structure ApuSettings where
  duty1 : BitVec 2
  duty2 : BitVec 2
  halts : List Bool
  enables : List Bool
  constants : List Bool
  periods : List (BitVec 4)
  sweepSwitches : List Bool
  sweepNumbers : List (BitVec 3)
  triPeriod : BitVec 11
  linearReloadValue : BitVec 7
  noiseMode : Bool
  noisePeriodIndex : BitVec 4
  dmcSwitches : List Bool
  dmcRateIndex : BitVec 4
  sampleAddrReg : Byte
  sampleLenReg : Byte
  irqInhibit : Bool
  deriving DecidableEq, Repr

/-- The settings of an APU. -/
def Apu.settings (a : Apu) : ApuSettings :=
  { duty1 := a.sq1.duty, duty2 := a.sq2.duty,
    halts := [a.sq1.len.halt, a.sq2.len.halt, a.tri.len.halt, a.noise.len.halt],
    enables := [a.sq1.len.enabled, a.sq2.len.enabled, a.tri.len.enabled, a.noise.len.enabled],
    constants := [a.sq1.env.constant, a.sq2.env.constant, a.noise.env.constant],
    periods := [a.sq1.env.period, a.sq2.env.period, a.noise.env.period],
    sweepSwitches := [a.sq1.sweep.enabled, a.sq1.sweep.negate, a.sq2.sweep.enabled, a.sq2.sweep.negate],
    sweepNumbers := [a.sq1.sweep.period, a.sq1.sweep.shift, a.sq2.sweep.period, a.sq2.sweep.shift],
    triPeriod := a.tri.timerPeriod, linearReloadValue := a.tri.linearReloadValue,
    noiseMode := a.noise.modeFlag, noisePeriodIndex := a.noise.periodIndex,
    dmcSwitches := [a.dmc.irqEnabled, a.dmc.loop], dmcRateIndex := a.dmc.rateIndex,
    sampleAddrReg := a.dmc.sampleAddrReg, sampleLenReg := a.dmc.sampleLenReg, irqInhibit := a.seq.irqInhibit }

/-- What no read cycle changes, DMA cycles in front of it included: every byte of memory, the launch parameters, `FAULT`, the controller's strobe and buttons, the cartridge's banking, the PPU's control and address-port registers and palette, the APU's settings. -/
structure Untouched (s t : State) : Prop where
  mem : t.mem = s.mem
  cfg : t.cfg = s.cfg
  fault : t.fault = s.fault
  strobe : t.pads.strobe = s.pads.strobe
  buttons0 : t.pads.buttons0 = s.pads.buttons0
  buttons1 : t.pads.buttons1 = s.pads.buttons1
  banks : t.cart.bankView = s.cart.bankView
  ctrl : t.ppu.ctrl = s.ppu.ctrl
  mask : t.ppu.mask = s.ppu.mask
  tempAddr : t.ppu.t = s.ppu.t
  fineX : t.ppu.fineX = s.ppu.fineX
  palette : t.ppu.palette = s.ppu.palette
  settings : t.apu.settings = s.apu.settings

/-! ### Effective addresses and plain memory -/

/-- The byte of work RAM at a CPU address below `$2000` (R66). -/
def State.ramByte (s : State) (a : Word) : Byte := s.mem.ram.read (a.toNat % 2048)

/-- A little-endian pointer in page 0, both bytes of which lie in page 0 (R168, R169). -/
def State.zpPair (s : State) (p : Byte) : Word := word (s.ramByte (zext (p + 1))) (s.ramByte (zext p))

/-- The effective address of a mode, as a function of the registers and of page 0 alone (R163 to R170). -/
def State.effective (s : State) : MemMode → Word
  | .zp z => zext z
  | .zpx z => zext (z + s.cpu.x)
  | .zpy z => zext (z + s.cpu.y)
  | .abs a => a
  | .abx a => a + zext s.cpu.x
  | .aby a => a + zext s.cpu.y
  | .izx z => s.zpPair (z + s.cpu.x)
  | .izy z => s.zpPair z + zext s.cpu.y

/-- The byte a read of `a` finds in plain memory: work RAM or a mapped cartridge bank; `none` for devices and open bus (R66). -/
def State.plainByte (s : State) (a : Word) : Option Byte :=
  if a.toNat < 0x2000 then some (s.ramByte a)
  else if a.toNat < 0x4020 then none
  else s.cart.cpuSpace.read s.mem a.toNat

/-- The base address an indexed mode adds its index to, and the index (R166, R169). -/
def State.indexing (s : State) : MemMode → Option (Word × Byte)
  | .abx a => some (a, s.cpu.x)
  | .aby a => some (a, s.cpu.y)
  | .izy z => some (s.zpPair z, s.cpu.y)
  | _ => none

/-- The page crossing that costs a read instruction one cycle more (R166, R169). -/
def State.pageCrossed (s : State) (m : MemMode) : Bool :=
  match s.indexing m with
  | some (base, r) => crosses base r
  | none => false

/-! ### Where a write lands -/

/-- A place in a backing buffer. -/
abbrev Place := BufId × Nat

/-- The byte of a memory space that a write of `a` stores to, if the bank is mapped and writable (R63). -/
def Space.place (sp : Space) (a : Nat) : Option Place :=
  match sp.bank a with
  | some b => if b.writable then some (b.buf, b.off + a % 1024) else none
  | none => none

/-- The backing byte that a CPU write of address `a` stores to, at the moment of its bus access (R69, R409): work RAM, the byte `V` addresses for the PPU's data port, cartridge RAM; none for every other address. -/
def State.writePlace (s : State) (a : Word) : Option Place :=
  if a.toNat < 0x2000 then some (.ram, a.toNat % 2048)
  else if a.toNat < 0x4000 then
    if a.toNat % 8 = 7 ∧ (vramAddr s.ppu.v).toNat < 0x3F00 then s.cart.ppuSpace.place (vramAddr s.ppu.v).toNat else none
  else if a.toNat < 0x4020 then none
  else if a.toNat < 0x8000 then s.cart.cpuSpace.place a.toNat
  else none

/-- Store a byte at a place, if there is one. -/
def Buffers.storeAt (m : Buffers) (p : Option Place) (v : Byte) : Buffers :=
  match p with
  | some (b, off) => m.set b ((m.get b).write off v)
  | none => m

/-- One byte of the backing buffers. -/
def Buffers.byte (m : Buffers) (b : BufId) (off : Nat) : Byte := (m.get b).read off

/-- The state at the bus access of a write cycle started in `s`. -/
def State.atWrite (s : State) : State := startTick .write s

/-- The memory after a write cycle of `v` to `a` started in `s`, on a machine without a fault (R69, R85). -/
def State.memAfterWrite (s : State) (a : Word) (v : Byte) : Buffers := s.mem.storeAt (s.atWrite.writePlace a) v

/-- What a write cycle to address `a` leaves alone beside memory: the launch parameters and the host's buttons always, and every register that only another address writes (R69).
The CPU registers are not spoken of. -/
structure StoreFrame (a : Word) (s t : State) : Prop where
  cfg : t.cfg = s.cfg
  buttons0 : t.pads.buttons0 = s.pads.buttons0
  buttons1 : t.pads.buttons1 = s.pads.buttons1
  fault : a.toNat < 0x8000 → t.fault = s.fault
  banks : a.toNat < 0x8000 → t.cart.bankView = s.cart.bankView
  strobe : a ≠ 0x4016 → t.pads.strobe = s.pads.strobe
  settings : a.toNat < 0x4000 ∨ 0x4017 < a.toNat → t.apu.settings = s.apu.settings
  ctrl : a.toNat < 0x2000 ∨ 0x4000 ≤ a.toNat ∨ a.toNat % 8 ≠ 0 → t.ppu.ctrl = s.ppu.ctrl
  mask : a.toNat < 0x2000 ∨ 0x4000 ≤ a.toNat ∨ a.toNat % 8 ≠ 1 → t.ppu.mask = s.ppu.mask
  tempAddr : a.toNat < 0x2000 ∨ 0x4000 ≤ a.toNat ∨ (a.toNat % 8 ≠ 0 ∧ a.toNat % 8 ≠ 5 ∧ a.toNat % 8 ≠ 6) → t.ppu.t = s.ppu.t
  fineX : a.toNat < 0x2000 ∨ 0x4000 ≤ a.toNat ∨ a.toNat % 8 ≠ 5 → t.ppu.fineX = s.ppu.fineX
  palette : a.toNat < 0x2000 ∨ 0x4000 ≤ a.toNat ∨ a.toNat % 8 ≠ 7 → t.ppu.palette = s.ppu.palette

/-- All of `Untouched` but memory: what a store to work RAM leaves alone. -/
abbrev RestUntouched (s t : State) : Prop := Untouched { s with mem := t.mem } t

/-! ### What a cartridge shows (R77, R530 to R535) -/

/-- The offset in PRG ROM that a mapper shows at the CPU address `a`, from `$8000` on: bank numbers modulo the banks present (R527, R530 to R535).
A 32 KiB window on one 16 KiB unit shows it twice: the model's choice, notes/assumptions/6.md. -/
def Cart.prgShown (c : Cart) (a : Nat) : Nat :=
  let bank16 (k : Nat) := k % c.prgUnits * 16384 + a % 16384
  let bank8 (k : Nat) := k % (2 * c.prgUnits) * 8192 + a % 8192
  let bank32 (k : Nat) := if c.prgUnits = 1 then a % 16384 else k % (c.prgUnits / 2) * 32768 + a % 32768
  let last := c.prgUnits - 1
  match c.mapper with
  | .nrom => if a < 0xC000 then bank16 0 else bank16 last
  | .mmc1 r =>
    if r.control.toNat / 4 % 4 = 2 then (if a < 0xC000 then bank16 0 else bank16 (r.prg.toNat % 16))
    else if r.control.toNat / 4 % 4 = 3 then (if a < 0xC000 then bank16 (r.prg.toNat % 16) else bank16 last)
    else bank32 (r.prg.toNat / 2 % 8)
  | .uxrom bank => if a < 0xC000 then bank16 bank.toNat else bank16 last
  | .cnrom _ => if a < 0xC000 then bank16 0 else bank16 last
  | .mmc3 r =>
    let swapped := r.bankSelect.getLsbD 6
    let fixed := 2 * c.prgUnits - 2
    if a < 0xA000 then bank8 (if swapped then fixed else (r.reg 6).toNat)
    else if a < 0xC000 then bank8 (r.reg 7).toNat
    else if a < 0xE000 then bank8 (if swapped then (r.reg 6).toNat else fixed)
    else bank8 (2 * c.prgUnits - 1)
  | .axrom reg => bank32 (reg.toNat % 8)

/-- The offset in CHR that a mapper shows at the PPU address `a` below `$2000` (R527, R530 to R535); CHR RAM counts as one unit of 8 KiB. -/
def Cart.chrShown (c : Cart) (a : Nat) : Nat :=
  let units := max 1 c.chrUnits
  let bank8 (k : Nat) := k % units * 8192 + a
  let bank4 (k : Nat) := k % (2 * units) * 4096 + a % 4096
  let bank1 (k : Nat) := k % (8 * units) * 1024 + a % 1024
  match c.mapper with
  | .nrom => bank8 0
  | .mmc1 r =>
    if r.control.getLsbD 4 then (if a < 0x1000 then bank4 r.chr0.toNat else bank4 r.chr1.toNat) else bank8 (r.chr0.toNat / 2)
  | .uxrom _ => bank8 0
  | .cnrom bank => bank8 bank.toNat
  | .mmc3 r =>
    let window := (if r.bankSelect.getLsbD 7 then a / 1024 + 4 else a / 1024) % 8
    if window < 4 then bank1 ((r.reg (window / 2)).toNat / 2 * 2 + window % 2) else bank1 (r.reg (window - 2)).toNat
  | .axrom _ => bank8 0

/-- The 1 KiB page of nametable RAM that each of the four nametables names (R77). -/
def Mirroring.pages : Mirroring → List Nat
  | .horizontal => [0, 0, 1, 1]
  | .vertical => [0, 1, 0, 1]
  | .singleA => [0, 0, 0, 0]
  | .singleB => [1, 1, 1, 1]
  | .fourScreen => [0, 1, 2, 3]

/-- The mirroring a mapper selects: MMC1, MMC3 and AxROM by a register, the others by the header (R530 to R535). -/
def Cart.mirrorShown (c : Cart) : Mirroring :=
  match c.mapper with
  | .mmc1 r => [.singleA, .singleB, .vertical, .horizontal].getD (r.control.toNat % 4) .horizontal
  | .mmc3 r => if c.headerFourScreen then .fourScreen else if r.mirror then .horizontal else .vertical
  | .axrom reg => if reg.toNat / 16 % 2 = 0 then .singleA else .singleB
  | _ => if c.headerFourScreen then .fourScreen else if c.headerVertical then .vertical else .horizontal

/-- The offset in nametable RAM that the PPU address `a`, from `$2000` to `$3FFF`, shows. -/
def Cart.ntShown (c : Cart) (a : Nat) : Nat := c.mirrorShown.pages.getD (a / 1024 % 4) 0 * 1024 + a % 1024

/-! ### The shapes of an instruction's effect -/

/-- The operand's value is `v`: the immediate byte itself, or the byte of plain memory at the effective address. -/
def State.finds (s : State) : Operand → Byte → Prop
  | .imm w, v => v = w
  | .mem m, v => s.fault = none ∧ s.plainByte (s.effective m) = some v

/-- A read instruction `i` with operand `o` completes: the cycles of `ReadOperand`, then the effect `f` of the operand's value on the registers, and nothing else (R174). -/
def ReadEffect (i : Instr) (o : Operand) (f : Byte → Cpu → Cpu) (s : State) : Prop :=
  ∃ t, exec i s = .next t ∧ t = (readOperand o s).2.setCpu (f (readOperand o s).1 s.cpu)
    ∧ (∀ v, s.finds o v → t.cpu = f v s.cpu) ∧ Untouched s t

/-- An implied instruction `i` completes: one dummy read at `PC`, then the effect `f` on the registers, and nothing else (R161). -/
def ImpliedEffect (i : Instr) (f : Cpu → Cpu) (s : State) : Prop :=
  ∃ t, exec i s = .next t ∧ t = (dummyRead s.cpu.pc s).setCpu (f s.cpu) ∧ t.cpu = f s.cpu ∧ Untouched s t

/-- The byte stored by a write cycle at `p`, and every other byte as in `m`. -/
def Buffers.storedAt (m n : Buffers) (p : Option Place) (v : Byte) : Prop :=
  ∀ b off, n.byte b off = if p = some (b, off) then v else m.byte b off

/-- A store instruction `i` of `v` with mode `m` completes: the cycles of `StoreAddress`, one write cycle at the effective address, no register changed (R175).
The byte stored and every other byte of memory are said by `Buffers.storedAt`. -/
def StoreEffect (i : Instr) (m : MemMode) (v : Byte) (s : State) : Prop :=
  ∃ t, exec i s = .next t ∧ t.cpu = s.cpu ∧
    (s.fault = none →
      t = memWrite (s.effective m) v (storeAddress m s).2 ∧ StoreFrame (s.effective m) s t ∧
      (s.mem.wf = true → s.mem.storedAt t.mem ((storeAddress m s).2.atWrite.writePlace (s.effective m)) v))

/-- A read-modify-write instruction `i` with mode `m` completes on a machine without a fault and with a legal cartridge: it reads the old byte, writes it back, writes `new` of it, and ends with the registers `after` of it (R176). -/
def RmwEffect (i : Instr) (m : MemMode) (new : Byte → Flags → Byte) (after : Byte → Cpu → Cpu) (s : State) : Prop :=
  let a := s.effective m
  let old := (memRead a (storeAddress m s).2).1
  let u := (memRead a (storeAddress m s).2).2
  let w := memWrite a old u
  ∃ t, exec i s = .next t ∧ t = (memWrite a (new old s.cpu.p) w).setCpu (after old s.cpu) ∧ t.fault = none ∧ StoreFrame a s t ∧
    (s.mem.wf = true → ∃ n, s.mem.storedAt n (u.atWrite.writePlace a) old ∧ n.storedAt t.mem (w.atWrite.writePlace a) (new old s.cpu.p)) ∧
    (a.toNat < 0x2000 → old = s.ramByte a) ∧
    (s.mem.wf = true → a.toNat < 0x2000 → ∀ c : Word, c.toNat < 0x2000 →
      t.ramByte c = if c.toNat % 2048 = a.toNat % 2048 then new (s.ramByte a) s.cpu.p else s.ramByte c)

/-- An unstable store `i` with mode `m` completes, from the registers of `s0`: the cycles of `StoreAddress`, one write cycle of some byte at the effective address, or, if the index crossed a page, at an address with its low byte; the registers end as in `s0` (R318 to R321, R323). -/
def UnstableStoreEffect (i : Instr) (m : MemMode) (s0 s : State) : Prop :=
  ∃ t, exec i s = .next t ∧ t.cpu = s0.cpu ∧
    (s.fault = none →
      ∃ (a : Word) (v : Byte), lo a = lo (s.effective m) ∧ (s.pageCrossed m = false → a = s.effective m) ∧ StoreFrame a s t ∧
        (s.mem.wf = true → s.mem.storedAt t.mem ((storeAddress m s0).2.atWrite.writePlace a) v))

/-- A branch `i` with displacement `d` completes: if `taken`, one dummy read at the next instruction, one more at the old page and the new offset if the target lies in another page, and `PC` becomes the target; otherwise nothing happens (R264). -/
def BranchEffect (i : Instr) (d : Byte) (taken : Bool) (s : State) : Prop :=
  let target := BitVec.ofInt 16 (s.cpu.pc.toNat + d.toInt)
  let t := dummyRead s.cpu.pc s
  let u := if hi target ≠ hi s.cpu.pc then dummyRead (word (hi s.cpu.pc) (lo target)) t else t
  exec i s = .next (if taken then u.setPc target else s) ∧ (u.setPc target).cpu = { s.cpu with pc := target } ∧ Untouched s (u.setPc target)

/-- The registers after an addition with carry, over the integers: unsigned carry out, signed overflow (R220). -/
def Cpu.addition (m : Byte) (c : Cpu) : Cpu :=
  let sum : Nat := c.a.toNat + m.toNat + c.p.c.toNat
  let signed : Int := c.a.toInt + m.toInt + (c.p.c.toNat : Int)
  { c with
    a := BitVec.ofNat 8 sum
    p := { c.p with c := decide (255 < sum), z := decide (sum % 256 = 0), n := (BitVec.ofNat 8 sum).getLsbD 7,
                    v := decide (signed < -128 ∨ 127 < signed) } }

/-- The registers after a subtraction with borrow, over the integers: no borrow, signed overflow (R221). -/
def Cpu.subtraction (m : Byte) (c : Cpu) : Cpu :=
  let borrow : Int := 1 - (c.p.c.toNat : Int)
  let diff : Int := (c.a.toNat : Int) - m.toNat - borrow
  let signed : Int := c.a.toInt - m.toInt - borrow
  { c with
    a := BitVec.ofInt 8 diff
    p := { c.p with c := decide (0 ≤ diff), z := decide (diff % 256 = 0), n := (BitVec.ofInt 8 diff).getLsbD 7,
                    v := decide (signed < -128 ∨ 127 < signed) } }

/-- The flags after an unsigned comparison of `r` with `m` (R225). -/
def Flags.compared (r m : Byte) (p : Flags) : Flags :=
  { p with c := decide (m.toNat ≤ r.toNat), z := decide (r = m), n := (r - m).getLsbD 7 }

/-- The flags after `setZN(v)` (R177). -/
def Flags.zn (v : Byte) (p : Flags) : Flags := { p with z := decide (v = 0), n := v.getLsbD 7 }

/-! ### The stack and exceptions -/

/-- The state of an exception entry after the two pushes of the program counter, where the vector is selected (R292, R352). -/
def pushedPc (s : State) : State := push (lo s.cpu.pc) (push (hi s.cpu.pc) s)

/-- The vector an exception entry takes: NMI's if an NMI is pending after the first two pushes (R353). -/
def State.entryVector (s : State) : Word := if (pushedPc s).int.nmi.pending then 0xFFFA else 0xFFFE

/-- Memory after an exception entry: `PC`, high byte first, and `P` on the stack (R292, R352). -/
def State.entryMem (b : Bool) (s : State) : Buffers :=
  { s.mem with ram := ((s.mem.ram.write (256 + s.cpu.sp.toNat) (hi s.cpu.pc)).write
      (256 + (s.cpu.sp - 1).toNat) (lo s.cpu.pc)).write (256 + (s.cpu.sp - 2).toNat) (s.cpu.p.toByte b) }

/-- What an exception entry from `s` leaves in `t`, its vector selected as in `u`: the three pushes, `I` set, `PC` from the vector (R292, R352, R353). -/
def EntryEffect (b : Bool) (s u t : State) : Prop :=
  t.cpu = { s.cpu with pc := t.cpu.pc, sp := s.cpu.sp - 3, p := { s.cpu.p with i := true } } ∧ RestUntouched s t ∧
    (s.fault = none → t.mem = s.entryMem b ∧
      ∀ l h, ({ s with mem := s.entryMem b } : State).plainByte u.entryVector = some l →
        ({ s with mem := s.entryMem b } : State).plainByte (u.entryVector + 1) = some h → t.cpu.pc = word h l)

/-! ### Ports -/

/-- The state after `k` more serial reads of controller port 1 (R371). -/
def Pads.after : Nat → Pads → Pads
  | 0, p => p
  | k + 1, p => Pads.after k p.read0.2

/-- The state after `k` more serial reads of controller port 2 (R371). -/
def Pads.after1 : Nat → Pads → Pads
  | 0, p => p
  | k + 1, p => Pads.after1 k p.read1.2

/-! ### The registers of the audio channels (R453 to R461) -/

/-- A length counter after a register write that loads it: only while the channel is enabled (R453, R454). -/
def LengthCounter.loaded (v : Byte) (l : LengthCounter) : LengthCounter :=
  { l with value := if l.enabled = true then
      ([10, 254, 20, 2, 40, 4, 80, 6, 160, 8, 60, 10, 14, 12, 26, 14] ++ [12, 16, 24, 18, 48, 20, 96, 22, 192, 24, 72, 26, 16, 28, 32, 30]
        : List Byte).getD (v.toNat / 8) 0 else l.value }

/-- An 11-bit timer period with its low byte, or its high three bits, replaced (R457 to R459). -/
def loadedPeriod (high : Bool) (v : Byte) (p : BitVec 11) : BitVec 11 :=
  BitVec.ofNat 11 (if high = true then v.toNat % 8 * 256 + p.toNat % 256 else p.toNat / 256 * 256 + v.toNat)

/-- An envelope after a control register write (R455, R460). -/
def Envelope.controlled (v : Byte) (e : Envelope) : Envelope := { e with constant := v.getLsbD 4, period := BitVec.ofNat 4 v.toNat }

/-- A square generator after a write to each of its four registers (R455 to R458). -/
def Square.written (v : Byte) (q : Square) : List Square :=
  [{ q with duty := BitVec.ofNat 2 (v.toNat / 64), len := { q.len with halt := v.getLsbD 5 }, env := q.env.controlled v },
   { q with sweep := { q.sweep with enabled := v.getLsbD 7, period := BitVec.ofNat 3 (v.toNat / 16), negate := v.getLsbD 3,
                                    shift := BitVec.ofNat 3 v.toNat, reload := true } },
   { q with timerPeriod := loadedPeriod false v q.timerPeriod },
   { q with timerPeriod := loadedPeriod true v q.timerPeriod, len := q.len.loaded v, dutyPos := 0, env := { q.env with start := true } }]

/-- The triangle generator after a write to each of its four registers, the second of them unused (R459). -/
def Triangle.written (v : Byte) (q : Triangle) : List Triangle :=
  [{ q with len := { q.len with halt := v.getLsbD 7 }, linearReloadValue := BitVec.ofNat 7 v.toNat }, q,
   { q with timerPeriod := loadedPeriod false v q.timerPeriod },
   { q with timerPeriod := loadedPeriod true v q.timerPeriod, len := q.len.loaded v, linearReload := true }]

/-- The noise generator after a write to each of its four registers, the second of them unused (R460). -/
def Noise.written (v : Byte) (q : Noise) : List Noise :=
  [{ q with len := { q.len with halt := v.getLsbD 5 }, env := q.env.controlled v }, q,
   { q with modeFlag := v.getLsbD 7, periodIndex := BitVec.ofNat 4 v.toNat },
   { q with len := q.len.loaded v, env := { q.env with start := true } }]

/-- The sample channel after a write to each of its four registers (R461). -/
def Dmc.written (v : Byte) (q : Dmc) : List Dmc :=
  [{ q with irqEnabled := v.getLsbD 7, loop := v.getLsbD 6, rateIndex := BitVec.ofNat 4 v.toNat,
            irqFlag := if v.getLsbD 7 = true then q.irqFlag else false },
   { q with outputLevel := BitVec.ofNat 7 v.toNat }, { q with sampleAddrReg := v }, { q with sampleLenReg := v }]

/-- The APU after a write of `v` to each channel register, `$4000` to `$4013` in order (R455 to R461, R470). -/
def Apu.written (v : Byte) (b : Apu) : List Apu :=
  (b.sq1.written v).map (fun q => { b with sq1 := q }) ++ (b.sq2.written v).map (fun q => { b with sq2 := q })
    ++ (b.tri.written v).map (fun q => { b with tri := q }) ++ (b.noise.written v).map (fun q => { b with noise := q })
    ++ (b.dmc.written v).map (fun q => { b with dmc := q })

/-- `RestartSample()` (R468). -/
def Dmc.Restarted (d q : Dmc) : Prop :=
  q.curAddr.toNat = 0xC000 + 64 * d.sampleAddrReg.toNat ∧ q.bytesRemaining.toNat = 16 * d.sampleLenReg.toNat + 1

/-! ### Sprites and pixels (R411 to R421) -/

/-- A byte taken as the Y coordinate of a sprite covers scanline `s` (R411). -/
def Ppu.covers (p : Ppu) (s : Nat) (y : Byte) : Bool := decide (y.toNat ≤ s ∧ s < y.toNat + (if p.ctrl.getLsbD 5 = true then 16 else 8))

/-- The sprites whose Y byte covers scanline `s`, in the order of OAM (R411). -/
def Ppu.spritesOn (p : Ppu) (s : Nat) : List Nat := (List.range 64).filter fun n => p.covers s (p.oam.read (4 * n))

/-- Whether the search after the eighth sprite finds a byte in range: the byte offset advances with the sprite number (R412). -/
def Ppu.overflowFound (p : Ppu) (s : Nat) : Bool :=
  match (p.spritesOn s)[7]? with
  | some n => (List.range (63 - n)).any fun j => p.covers s (p.oam.read (4 * (n + 1 + j) + j % 4))
  | none => false

/-- What sprite selection for the scanline below `s` leaves in `q` (R411, R412). -/
structure Ppu.Selected (p : Ppu) (s : Nat) (q : Ppu) : Prop where
  count : q.sprNextCount = min 8 (p.spritesOn s).length
  hasZero : q.sprNextHasZero = decide (0 ∈ p.spritesOn s)
  copied : ∀ u n k, u < 8 → (p.spritesOn s)[u]? = some n → k < 4 → q.secOam.read (4 * u + k) = p.oam.read (4 * n + k)
  overflow : q.spriteOverflow = (p.spriteOverflow || p.overflowFound s)
  pointer : q.oamAddr = 0

/-- The address of the low pattern byte of row `row` of a sprite (R398). -/
def Ppu.spritePattern (p : Ppu) (tile : Byte) (row : Nat) : Nat :=
  if p.ctrl.getLsbD 5 = true then tile.toNat % 2 * 4096 + 16 * (tile.toNat / 2 * 2 + row / 8) + row % 8
  else (if p.ctrl.getLsbD 3 = true then 4096 else 0) + 16 * tile.toNat + row

/-- The pattern row of a sprite on the scanline below `s`, after vertical flip (R413). -/
def Ppu.spriteRowShown (p : Ppu) (s : Nat) (y attr : Byte) : Nat :=
  if attr.getLsbD 7 = true then (if p.ctrl.getLsbD 5 = true then 15 else 7) - (s - y.toNat) else s - y.toNat

/-- What loading the sprite units on scanline `s` leaves in `q`, pattern bytes read through `read` (R413). -/
structure Ppu.SpritesLoaded (p : Ppu) (read : Nat → Option Byte) (s : Nat) (q : Ppu) : Prop where
  count : q.sprCount = p.sprNextCount
  length : q.sprites.length = p.sprites.length
  used : ∀ u w, u < p.sprNextCount → q.sprites[u]? = some w →
    w.attr = p.secOam.read (4 * u + 2) ∧ w.x = p.secOam.read (4 * u + 3) ∧ w.isZero = (decide (u = 0) && p.sprNextHasZero) ∧
    (p.covers s (p.secOam.read (4 * u)) = true → ∀ l h,
      read (p.spritePattern (p.secOam.read (4 * u + 1)) (p.spriteRowShown s (p.secOam.read (4 * u)) w.attr)) = some l →
      read (p.spritePattern (p.secOam.read (4 * u + 1)) (p.spriteRowShown s (p.secOam.read (4 * u)) w.attr) + 8) = some h →
      ∀ i, i < 8 → w.patLo.getLsbD i = l.getLsbD (if w.attr.getLsbD 6 = true then 7 - i else i) ∧
        w.patHi.getLsbD i = h.getLsbD (if w.attr.getLsbD 6 = true then 7 - i else i))
  unused : ∀ u w, p.sprNextCount ≤ u → q.sprites[u]? = some w → w.patLo = 0 ∧ w.patHi = 0

/-- The two-bit pixel whose bits stand at place `k` of two bytes or shift registers. -/
def pixelAt {n : Nat} (h l : BitVec n) (k : Nat) : Nat := 2 * (h.getLsbD k).toNat + (l.getLsbD k).toNat

/-- The background's pixel and palette at column `x` (R415). -/
def Ppu.bgShown (p : Ppu) (x : Nat) : Nat × Nat :=
  if p.mask.getLsbD 3 = false ∨ (x < 8 ∧ p.mask.getLsbD 1 = false) then (0, 0)
  else (pixelAt p.bgShiftHi p.bgShiftLo (15 - p.fineX.toNat), pixelAt p.atShiftHi p.atShiftLo (15 - p.fineX.toNat))

/-- The pixel of a sprite unit at column `x`, 0 beside the sprite (R416). -/
def SpriteUnit.shown (u : SpriteUnit) (x : Nat) : Nat :=
  if u.x.toNat ≤ x ∧ x < u.x.toNat + 8 then pixelAt u.patHi u.patLo (u.x.toNat + 7 - x) else 0

/-- The sprite unit that shows at column `x`: the first in use with an opaque pixel (R416). -/
def Ppu.spriteShown (p : Ppu) (x : Nat) : Option SpriteUnit :=
  if p.mask.getLsbD 4 = false ∨ (x < 8 ∧ p.mask.getLsbD 2 = false) then none
  else (p.sprites.take p.sprCount).find? fun u => decide (u.shown x ≠ 0)

/-- The palette entry of the pixel at column `x` (R414, R417). -/
def Ppu.entryShown (p : Ppu) (x : Nat) : Nat :=
  match p.spriteShown x with
  | some u =>
    if (p.bgShown x).1 ≠ 0 ∧ u.attr.getLsbD 5 = true then 4 * (p.bgShown x).2 + (p.bgShown x).1
    else 16 + 4 * (u.attr.toNat % 4) + u.shown x
  | none => if (p.bgShown x).1 = 0 then 0 else 4 * (p.bgShown x).2 + (p.bgShown x).1

/-- The stored pixel of colour `c`: six bits of colour, greyscaled if `MASK[0]`, above the three of emphasis (R419). -/
def Ppu.pixelOf (p : Ppu) (c : Byte) : Nat :=
  8 * (if p.mask.getLsbD 0 = true then c.toNat / 16 % 4 * 16 else c.toNat % 64) + p.mask.toNat / 32

/-- What the output of the pixel at column `x` of scanline `s` leaves in `q` (R414, R418). -/
structure Ppu.PixelOut (p : Ppu) (s x : Nat) (q : Ppu) : Prop where
  shown : (Pixels.read q.pixels (256 * s + x)).toNat = p.pixelOf (p.palette.read (p.entryShown x))
  others : ∀ i, i ≠ 256 * s + x → Pixels.read q.pixels i = Pixels.read p.pixels i
  hit : q.spriteZeroHit = true ↔
    p.spriteZeroHit = true ∨ (x ≠ 255 ∧ (p.bgShown x).1 ≠ 0 ∧ ∃ u, p.spriteShown x = some u ∧ u.isZero = true)

/-! ### The forms of each mnemonic (R134) -/

/-- The opcodes of a list of forms. -/
def opcodes {α : Type} (l : List (Instr × α)) : List Byte := l.map fun f => (encode f.1).headD 0

/-- The forms of `LDA` with their operands. -/
def ldaForms (v : Byte) (z : Byte) (a : Word) : List (Instr × Operand) :=
  [(.ldaIzx z, .mem (.izx z)), (.ldaZp z, .mem (.zp z)), (.ldaImm v, .imm v), (.ldaAbs a, .mem (.abs a)), (.ldaIzy z, .mem (.izy z)),
   (.ldaZpx z, .mem (.zpx z)), (.ldaAby a, .mem (.aby a)), (.ldaAbx a, .mem (.abx a))]

/-- The forms of `LDX`. -/
def ldxForms (v : Byte) (z : Byte) (a : Word) : List (Instr × Operand) :=
  [(.ldxImm v, .imm v), (.ldxZp z, .mem (.zp z)), (.ldxAbs a, .mem (.abs a)), (.ldxZpy z, .mem (.zpy z)), (.ldxAby a, .mem (.aby a))]

/-- The forms of `LDY`. -/
def ldyForms (v : Byte) (z : Byte) (a : Word) : List (Instr × Operand) :=
  [(.ldyImm v, .imm v), (.ldyZp z, .mem (.zp z)), (.ldyAbs a, .mem (.abs a)), (.ldyZpx z, .mem (.zpx z)), (.ldyAbx a, .mem (.abx a))]

/-- The forms of `STA`. -/
def staForms (z : Byte) (a : Word) : List (Instr × MemMode) :=
  [(.staIzx z, .izx z), (.staZp z, .zp z), (.staAbs a, .abs a), (.staIzy z, .izy z), (.staZpx z, .zpx z), (.staAby a, .aby a), (.staAbx a, .abx a)]

/-- The forms of `STX`. -/
def stxForms (z : Byte) (a : Word) : List (Instr × MemMode) :=
  [(.stxZp z, .zp z), (.stxAbs a, .abs a), (.stxZpy z, .zpy z)]

/-- The forms of `STY`. -/
def styForms (z : Byte) (a : Word) : List (Instr × MemMode) :=
  [(.styZp z, .zp z), (.styAbs a, .abs a), (.styZpx z, .zpx z)]

/-- The forms of `*SAX`. -/
def saxForms (z : Byte) (a : Word) : List (Instr × MemMode) :=
  [(.saxIzx z, .izx z), (.saxZp z, .zp z), (.saxAbs a, .abs a), (.saxZpy z, .zpy z)]

/-- The forms of `ADC`. -/
def adcForms (v : Byte) (z : Byte) (a : Word) : List (Instr × Operand) :=
  [(.adcIzx z, .mem (.izx z)), (.adcZp z, .mem (.zp z)), (.adcImm v, .imm v), (.adcAbs a, .mem (.abs a)), (.adcIzy z, .mem (.izy z)),
   (.adcZpx z, .mem (.zpx z)), (.adcAby a, .mem (.aby a)), (.adcAbx a, .mem (.abx a))]

/-- The forms of `SBC`, and the duplicate `*SBC`. -/
def sbcForms (v : Byte) (z : Byte) (a : Word) : List (Instr × Operand) :=
  [(.sbcIzx z, .mem (.izx z)), (.sbcZp z, .mem (.zp z)), (.sbcImm v, .imm v), (.sbcAbs a, .mem (.abs a)), (.sbcIzy z, .mem (.izy z)),
   (.sbcZpx z, .mem (.zpx z)), (.sbcAby a, .mem (.aby a)), (.sbcAbx a, .mem (.abx a)), (.sbcImmEB v, .imm v)]

/-- The forms of `AND`. -/
def andForms (v : Byte) (z : Byte) (a : Word) : List (Instr × Operand) :=
  [(.andIzx z, .mem (.izx z)), (.andZp z, .mem (.zp z)), (.andImm v, .imm v), (.andAbs a, .mem (.abs a)), (.andIzy z, .mem (.izy z)),
   (.andZpx z, .mem (.zpx z)), (.andAby a, .mem (.aby a)), (.andAbx a, .mem (.abx a))]

/-- The forms of `ORA`. -/
def oraForms (v : Byte) (z : Byte) (a : Word) : List (Instr × Operand) :=
  [(.oraIzx z, .mem (.izx z)), (.oraZp z, .mem (.zp z)), (.oraImm v, .imm v), (.oraAbs a, .mem (.abs a)), (.oraIzy z, .mem (.izy z)),
   (.oraZpx z, .mem (.zpx z)), (.oraAby a, .mem (.aby a)), (.oraAbx a, .mem (.abx a))]

/-- The forms of `EOR`. -/
def eorForms (v : Byte) (z : Byte) (a : Word) : List (Instr × Operand) :=
  [(.eorIzx z, .mem (.izx z)), (.eorZp z, .mem (.zp z)), (.eorImm v, .imm v), (.eorAbs a, .mem (.abs a)), (.eorIzy z, .mem (.izy z)),
   (.eorZpx z, .mem (.zpx z)), (.eorAby a, .mem (.aby a)), (.eorAbx a, .mem (.abx a))]

/-- The forms of `CMP`. -/
def cmpForms (v : Byte) (z : Byte) (a : Word) : List (Instr × Operand) :=
  [(.cmpIzx z, .mem (.izx z)), (.cmpZp z, .mem (.zp z)), (.cmpImm v, .imm v), (.cmpAbs a, .mem (.abs a)), (.cmpIzy z, .mem (.izy z)),
   (.cmpZpx z, .mem (.zpx z)), (.cmpAby a, .mem (.aby a)), (.cmpAbx a, .mem (.abx a))]

/-- The forms of `CPX`. -/
def cpxForms (v : Byte) (z : Byte) (a : Word) : List (Instr × Operand) :=
  [(.cpxImm v, .imm v), (.cpxZp z, .mem (.zp z)), (.cpxAbs a, .mem (.abs a))]

/-- The forms of `CPY`. -/
def cpyForms (v : Byte) (z : Byte) (a : Word) : List (Instr × Operand) :=
  [(.cpyImm v, .imm v), (.cpyZp z, .mem (.zp z)), (.cpyAbs a, .mem (.abs a))]

/-- The forms of `BIT`. -/
def bitForms (z : Byte) (a : Word) : List (Instr × Operand) :=
  [(.bitZp z, .mem (.zp z)), (.bitAbs a, .mem (.abs a))]

/-- The memory forms of `ASL`. -/
def aslForms (z : Byte) (a : Word) : List (Instr × MemMode) :=
  [(.aslZp z, .zp z), (.aslAbs a, .abs a), (.aslZpx z, .zpx z), (.aslAbx a, .abx a)]

/-- The memory forms of `LSR`. -/
def lsrForms (z : Byte) (a : Word) : List (Instr × MemMode) :=
  [(.lsrZp z, .zp z), (.lsrAbs a, .abs a), (.lsrZpx z, .zpx z), (.lsrAbx a, .abx a)]

/-- The memory forms of `ROL`. -/
def rolForms (z : Byte) (a : Word) : List (Instr × MemMode) :=
  [(.rolZp z, .zp z), (.rolAbs a, .abs a), (.rolZpx z, .zpx z), (.rolAbx a, .abx a)]

/-- The memory forms of `ROR`. -/
def rorForms (z : Byte) (a : Word) : List (Instr × MemMode) :=
  [(.rorZp z, .zp z), (.rorAbs a, .abs a), (.rorZpx z, .zpx z), (.rorAbx a, .abx a)]

/-- The memory forms of `INC`. -/
def incForms (z : Byte) (a : Word) : List (Instr × MemMode) :=
  [(.incZp z, .zp z), (.incAbs a, .abs a), (.incZpx z, .zpx z), (.incAbx a, .abx a)]

/-- The memory forms of `DEC`. -/
def decForms (z : Byte) (a : Word) : List (Instr × MemMode) :=
  [(.decZp z, .zp z), (.decAbs a, .abs a), (.decZpx z, .zpx z), (.decAbx a, .abx a)]

/-- The forms of `*NOP` with an operand. -/
def nopForms (v : Byte) (z : Byte) (a : Word) : List (Instr × Operand) :=
  [(.nopZp04 z, .mem (.zp z)), (.nopAbs0C a, .mem (.abs a)), (.nopZpx14 z, .mem (.zpx z)), (.nopAbx1C a, .mem (.abx a)), (.nopZpx34 z, .mem (.zpx z)),
   (.nopAbx3C a, .mem (.abx a)), (.nopZp44 z, .mem (.zp z)), (.nopZpx54 z, .mem (.zpx z)), (.nopAbx5C a, .mem (.abx a)), (.nopZp64 z, .mem (.zp z)),
   (.nopZpx74 z, .mem (.zpx z)), (.nopAbx7C a, .mem (.abx a)), (.nopImm80 v, .imm v), (.nopImm82 v, .imm v), (.nopImm89 v, .imm v), (.nopImmC2 v, .imm v),
   (.nopZpxD4 z, .mem (.zpx z)), (.nopAbxDC a, .mem (.abx a)), (.nopImmE2 v, .imm v), (.nopZpxF4 z, .mem (.zpx z)), (.nopAbxFC a, .mem (.abx a))]

/-- The forms of `*LAX`. -/
def laxForms (z : Byte) (a : Word) : List (Instr × Operand) :=
  [(.laxIzx z, .mem (.izx z)), (.laxZp z, .mem (.zp z)), (.laxAbs a, .mem (.abs a)), (.laxIzy z, .mem (.izy z)), (.laxZpy z, .mem (.zpy z)),
   (.laxAby a, .mem (.aby a))]

/-- The forms of `*DCP`. -/
def dcpForms (z : Byte) (a : Word) : List (Instr × MemMode) :=
  [(.dcpIzx z, .izx z), (.dcpZp z, .zp z), (.dcpAbs a, .abs a), (.dcpIzy z, .izy z), (.dcpZpx z, .zpx z), (.dcpAby a, .aby a), (.dcpAbx a, .abx a)]

/-- The forms of `*ISB`. -/
def isbForms (z : Byte) (a : Word) : List (Instr × MemMode) :=
  [(.isbIzx z, .izx z), (.isbZp z, .zp z), (.isbAbs a, .abs a), (.isbIzy z, .izy z), (.isbZpx z, .zpx z), (.isbAby a, .aby a), (.isbAbx a, .abx a)]

/-- The forms of `*SLO`. -/
def sloForms (z : Byte) (a : Word) : List (Instr × MemMode) :=
  [(.sloIzx z, .izx z), (.sloZp z, .zp z), (.sloAbs a, .abs a), (.sloIzy z, .izy z), (.sloZpx z, .zpx z), (.sloAby a, .aby a), (.sloAbx a, .abx a)]

/-- The forms of `*RLA`. -/
def rlaForms (z : Byte) (a : Word) : List (Instr × MemMode) :=
  [(.rlaIzx z, .izx z), (.rlaZp z, .zp z), (.rlaAbs a, .abs a), (.rlaIzy z, .izy z), (.rlaZpx z, .zpx z), (.rlaAby a, .aby a), (.rlaAbx a, .abx a)]

/-- The forms of `*SRE`. -/
def sreForms (z : Byte) (a : Word) : List (Instr × MemMode) :=
  [(.sreIzx z, .izx z), (.sreZp z, .zp z), (.sreAbs a, .abs a), (.sreIzy z, .izy z), (.sreZpx z, .zpx z), (.sreAby a, .aby a), (.sreAbx a, .abx a)]

/-- The forms of `*RRA`. -/
def rraForms (z : Byte) (a : Word) : List (Instr × MemMode) :=
  [(.rraIzx z, .izx z), (.rraZp z, .zp z), (.rraAbs a, .abs a), (.rraIzy z, .izy z), (.rraZpx z, .zpx z), (.rraAby a, .aby a), (.rraAbx a, .abx a)]

/-- The twelve `JAM` instructions with their opcodes (R322). -/
def jamForms : List (Instr × Byte) :=
  [(.jam02, 0x02), (.jam12, 0x12), (.jam22, 0x22), (.jam32, 0x32), (.jam42, 0x42), (.jam52, 0x52), (.jam62, 0x62), (.jam72, 0x72), (.jam92, 0x92),
   (.jamB2, 0xB2), (.jamD2, 0xD2), (.jamF2, 0xF2)]

/-- The one-byte `*NOP` forms and `NOP` (R291, R301). -/
def nopImplied : List Instr :=
  [.nop, .nopImp1A, .nopImp3A, .nopImp5A, .nopImp7A, .nopImpDA, .nopImpFA]

/-! ### Who writes which register and flag (R21, R23, R25) -/

/-- The read-modify-write forms of the illegal opcodes that combine one with an accumulator operation (R305 to R310). -/
def illegalRmwForms (z : Byte) (a : Word) : List (Instr × MemMode) :=
  dcpForms z a ++ isbForms z a ++ sloForms z a ++ rlaForms z a ++ sreForms z a ++ rraForms z a

/-- The memory forms of the shifts and rotates. -/
def shiftForms (z : Byte) (a : Word) : List (Instr × MemMode) := aslForms z a ++ lsrForms z a ++ rolForms z a ++ rorForms z a

/-- The accumulator forms of the shifts and rotates. -/
def shiftAcc : List Instr := [.aslAcc, .lsrAcc, .rolAcc, .rorAcc]

/-- The stable illegal immediates (R311 to R314). -/
def illegalImm (v : Byte) : List Instr := [.ancImm0B v, .ancImm2B v, .alrImm v, .arrImm v, .axsImm v]

/-- The instructions that write `C` (R25). -/
def carryWriters (v z : Byte) (a : Word) : List Instr :=
  (adcForms v z a ++ sbcForms v z a ++ cmpForms v z a ++ cpxForms v z a ++ cpyForms v z a).map Prod.fst
    ++ (shiftForms z a ++ illegalRmwForms z a).map Prod.fst ++ shiftAcc ++ illegalImm v ++ [.clc, .sec, .plp, .rti]

/-- The instructions that write `V` (R25). -/
def overflowWriters (v z : Byte) (a : Word) : List Instr :=
  (adcForms v z a ++ sbcForms v z a ++ bitForms z a).map Prod.fst ++ (isbForms z a ++ rraForms z a).map Prod.fst
    ++ [.arrImm v, .clv, .plp, .rti]

/-- The instructions that write `I` (R25). -/
def maskWriters : List Instr := [.sei, .cli, .plp, .rti, .brk]

/-- The instructions that write `D` (R25). -/
def decimalWriters : List Instr := [.sed, .cld, .plp, .rti]

/-- The instructions that write `Z` and `N`: every instruction that calls `setZN`, `BIT`, `PLP`, `RTI` (R25). -/
def resultWriters (v z : Byte) (a : Word) : List Instr :=
  (ldaForms v z a ++ ldxForms v z a ++ ldyForms v z a ++ adcForms v z a ++ sbcForms v z a ++ andForms v z a ++ oraForms v z a ++ eorForms v z a).map Prod.fst
    ++ (cmpForms v z a ++ cpxForms v z a ++ cpyForms v z a ++ bitForms z a ++ laxForms z a).map Prod.fst
    ++ (shiftForms z a ++ incForms z a ++ decForms z a ++ illegalRmwForms z a).map Prod.fst
    ++ shiftAcc ++ illegalImm v ++ [.lasAby a, .lxaImm v, .xaaImm v]
    ++ [.tax, .tay, .txa, .tya, .tsx, .inx, .iny, .dex, .dey, .pla, .plp, .rti]

/-- The instructions that write `S`: `TXS`, `TAS`, `LAS`, every push and every pull (R21). -/
def stackWriters (a : Word) : List Instr := [.txs, .tasAby a, .lasAby a, .pha, .php, .pla, .plp, .jsr a, .rts, .rti, .brk]

/-- The eight branches (R265 to R272) and whether each is taken. -/
def branchForms (d : Byte) (p : Flags) : List (Instr × Bool) :=
  [(.bcc d, !p.c), (.bcs d, p.c), (.beq d, p.z), (.bne d, !p.z), (.bmi d, p.n), (.bpl d, !p.n), (.bvc d, !p.v), (.bvs d, p.v)]

/-- The instructions that load `PC` (R23). -/
def pcWriters (d : Byte) (a : Word) (p : Flags) : List Instr :=
  [.jmpAbs a, .jmpInd a, .jsr a, .rts, .rti, .brk] ++ (branchForms d p).map Prod.fst

/-! ### Cycle counts (R178) -/

/-- The bytes of an instruction that the fetch reads before the instruction's own cycles (R160, R262). -/
def Instr.fetchLength (i : Instr) : Nat := Sys2Proof.Machine.fetchLength ((encode i).headD 0)

/-- The displacement branches cost: 0 if not taken, 1 within the page of the next instruction, 2 to another page (R264). -/
def branchExtra (taken : Bool) (pc : Word) (d : Byte) : Nat := if taken then (if branchCrosses pc d then 2 else 1) else 0

/-- One cycle more if a page is crossed. -/
def State.crossExtra (s : State) (m : MemMode) : Nat := if s.pageCrossed m then 1 else 0

/-- The cycles of an instruction executed in `s` after its bytes have been fetched, its fetch included: the `cycles` column of spec/opcode_table.json (R178). -/
def Instr.cycles (i : Instr) (s : State) : Nat :=
  match i with
  -- Loads (41, R190 to R192)
  | .ldaIzx _ => 6
  | .ldaZp _ => 3
  | .ldaImm _ => 2
  | .ldaAbs _ => 4
  | .ldaIzy z => 5 + s.crossExtra (.izy z)
  | .ldaZpx _ => 4
  | .ldaAby a => 4 + s.crossExtra (.aby a)
  | .ldaAbx a => 4 + s.crossExtra (.abx a)
  | .ldxImm _ => 2
  | .ldxZp _ => 3
  | .ldxAbs _ => 4
  | .ldxZpy _ => 4
  | .ldxAby a => 4 + s.crossExtra (.aby a)
  | .ldyImm _ => 2
  | .ldyZp _ => 3
  | .ldyAbs _ => 4
  | .ldyZpx _ => 4
  | .ldyAbx a => 4 + s.crossExtra (.abx a)
  -- Stores (41, R193 to R195)
  | .staIzx _ => 6
  | .staZp _ => 3
  | .staAbs _ => 4
  | .staIzy _ => 6
  | .staZpx _ => 4
  | .staAby _ => 5
  | .staAbx _ => 5
  | .stxZp _ => 3
  | .stxAbs _ => 4
  | .stxZpy _ => 4
  | .styZp _ => 3
  | .styAbs _ => 4
  | .styZpx _ => 4
  -- Register transfers (41, R196 to R201)
  | .tax => 2
  | .tay => 2
  | .txa => 2
  | .tya => 2
  | .tsx => 2
  | .txs => 2
  -- Add and subtract (42, R220, R221)
  | .adcIzx _ => 6
  | .adcZp _ => 3
  | .adcImm _ => 2
  | .adcAbs _ => 4
  | .adcIzy z => 5 + s.crossExtra (.izy z)
  | .adcZpx _ => 4
  | .adcAby a => 4 + s.crossExtra (.aby a)
  | .adcAbx a => 4 + s.crossExtra (.abx a)
  | .sbcIzx _ => 6
  | .sbcZp _ => 3
  | .sbcImm _ => 2
  | .sbcAbs _ => 4
  | .sbcIzy z => 5 + s.crossExtra (.izy z)
  | .sbcZpx _ => 4
  | .sbcAby a => 4 + s.crossExtra (.aby a)
  | .sbcAbx a => 4 + s.crossExtra (.abx a)
  -- Logic (42, R222 to R224)
  | .andIzx _ => 6
  | .andZp _ => 3
  | .andImm _ => 2
  | .andAbs _ => 4
  | .andIzy z => 5 + s.crossExtra (.izy z)
  | .andZpx _ => 4
  | .andAby a => 4 + s.crossExtra (.aby a)
  | .andAbx a => 4 + s.crossExtra (.abx a)
  | .oraIzx _ => 6
  | .oraZp _ => 3
  | .oraImm _ => 2
  | .oraAbs _ => 4
  | .oraIzy z => 5 + s.crossExtra (.izy z)
  | .oraZpx _ => 4
  | .oraAby a => 4 + s.crossExtra (.aby a)
  | .oraAbx a => 4 + s.crossExtra (.abx a)
  | .eorIzx _ => 6
  | .eorZp _ => 3
  | .eorImm _ => 2
  | .eorAbs _ => 4
  | .eorIzy z => 5 + s.crossExtra (.izy z)
  | .eorZpx _ => 4
  | .eorAby a => 4 + s.crossExtra (.aby a)
  | .eorAbx a => 4 + s.crossExtra (.abx a)
  -- Compare and bit test (42, R225 to R228)
  | .cmpIzx _ => 6
  | .cmpZp _ => 3
  | .cmpImm _ => 2
  | .cmpAbs _ => 4
  | .cmpIzy z => 5 + s.crossExtra (.izy z)
  | .cmpZpx _ => 4
  | .cmpAby a => 4 + s.crossExtra (.aby a)
  | .cmpAbx a => 4 + s.crossExtra (.abx a)
  | .cpxImm _ => 2
  | .cpxZp _ => 3
  | .cpxAbs _ => 4
  | .cpyImm _ => 2
  | .cpyZp _ => 3
  | .cpyAbs _ => 4
  | .bitZp _ => 3
  | .bitAbs _ => 4
  -- Register increment and decrement (42, R231 to R234)
  | .inx => 2
  | .iny => 2
  | .dex => 2
  | .dey => 2
  -- Shifts, rotates, memory increment and decrement (43, R250 to R255)
  | .aslZp _ => 5
  | .aslAcc => 2
  | .aslAbs _ => 6
  | .aslZpx _ => 6
  | .aslAbx _ => 7
  | .lsrZp _ => 5
  | .lsrAcc => 2
  | .lsrAbs _ => 6
  | .lsrZpx _ => 6
  | .lsrAbx _ => 7
  | .rolZp _ => 5
  | .rolAcc => 2
  | .rolAbs _ => 6
  | .rolZpx _ => 6
  | .rolAbx _ => 7
  | .rorZp _ => 5
  | .rorAcc => 2
  | .rorAbs _ => 6
  | .rorZpx _ => 6
  | .rorAbx _ => 7
  | .incZp _ => 5
  | .incAbs _ => 6
  | .incZpx _ => 6
  | .incAbx _ => 7
  | .decZp _ => 5
  | .decAbs _ => 6
  | .decZpx _ => 6
  | .decAbx _ => 7
  -- Jumps, subroutines (44, R260 to R263)
  | .jmpAbs _ => 3
  | .jmpInd _ => 5
  | .jsr _ => 6
  | .rts => 6
  -- Conditional branches (44, R265 to R272)
  | .bcc d => 2 + branchExtra (!s.cpu.p.c) s.cpu.pc d
  | .bcs d => 2 + branchExtra (s.cpu.p.c) s.cpu.pc d
  | .beq d => 2 + branchExtra (s.cpu.p.z) s.cpu.pc d
  | .bne d => 2 + branchExtra (!s.cpu.p.z) s.cpu.pc d
  | .bmi d => 2 + branchExtra (s.cpu.p.n) s.cpu.pc d
  | .bpl d => 2 + branchExtra (!s.cpu.p.n) s.cpu.pc d
  | .bvc d => 2 + branchExtra (!s.cpu.p.v) s.cpu.pc d
  | .bvs d => 2 + branchExtra (s.cpu.p.v) s.cpu.pc d
  -- Stack (45, R280 to R283)
  | .pha => 3
  | .php => 3
  | .pla => 4
  | .plp => 4
  -- Flag set and clear, no operation (45, R284 to R291)
  | .clc => 2
  | .sec => 2
  | .cli => 2
  | .sei => 2
  | .cld => 2
  | .sed => 2
  | .clv => 2
  | .nop => 2
  -- Software interrupt and return (45, R292, R293)
  | .brk => 7
  | .rti => 6
  -- Illegal no-operation forms (46, R301)
  | .nopZp04 _ => 3
  | .nopAbs0C _ => 4
  | .nopZpx14 _ => 4
  | .nopImp1A => 2
  | .nopAbx1C a => 4 + s.crossExtra (.abx a)
  | .nopZpx34 _ => 4
  | .nopImp3A => 2
  | .nopAbx3C a => 4 + s.crossExtra (.abx a)
  | .nopZp44 _ => 3
  | .nopZpx54 _ => 4
  | .nopImp5A => 2
  | .nopAbx5C a => 4 + s.crossExtra (.abx a)
  | .nopZp64 _ => 3
  | .nopZpx74 _ => 4
  | .nopImp7A => 2
  | .nopAbx7C a => 4 + s.crossExtra (.abx a)
  | .nopImm80 _ => 2
  | .nopImm82 _ => 2
  | .nopImm89 _ => 2
  | .nopImmC2 _ => 2
  | .nopZpxD4 _ => 4
  | .nopImpDA => 2
  | .nopAbxDC a => 4 + s.crossExtra (.abx a)
  | .nopImmE2 _ => 2
  | .nopZpxF4 _ => 4
  | .nopImpFA => 2
  | .nopAbxFC a => 4 + s.crossExtra (.abx a)
  -- Stable illegal loads, stores and the duplicate SBC (46, R302 to R304)
  | .laxIzx _ => 6
  | .laxZp _ => 3
  | .laxAbs _ => 4
  | .laxIzy z => 5 + s.crossExtra (.izy z)
  | .laxZpy _ => 4
  | .laxAby a => 4 + s.crossExtra (.aby a)
  | .saxIzx _ => 6
  | .saxZp _ => 3
  | .saxAbs _ => 4
  | .saxZpy _ => 4
  | .sbcImmEB _ => 2
  -- Stable illegal read-modify-write forms (46, R305 to R310)
  | .dcpIzx _ => 8
  | .dcpZp _ => 5
  | .dcpAbs _ => 6
  | .dcpIzy _ => 8
  | .dcpZpx _ => 6
  | .dcpAby _ => 7
  | .dcpAbx _ => 7
  | .isbIzx _ => 8
  | .isbZp _ => 5
  | .isbAbs _ => 6
  | .isbIzy _ => 8
  | .isbZpx _ => 6
  | .isbAby _ => 7
  | .isbAbx _ => 7
  | .sloIzx _ => 8
  | .sloZp _ => 5
  | .sloAbs _ => 6
  | .sloIzy _ => 8
  | .sloZpx _ => 6
  | .sloAby _ => 7
  | .sloAbx _ => 7
  | .rlaIzx _ => 8
  | .rlaZp _ => 5
  | .rlaAbs _ => 6
  | .rlaIzy _ => 8
  | .rlaZpx _ => 6
  | .rlaAby _ => 7
  | .rlaAbx _ => 7
  | .sreIzx _ => 8
  | .sreZp _ => 5
  | .sreAbs _ => 6
  | .sreIzy _ => 8
  | .sreZpx _ => 6
  | .sreAby _ => 7
  | .sreAbx _ => 7
  | .rraIzx _ => 8
  | .rraZp _ => 5
  | .rraAbs _ => 6
  | .rraIzy _ => 8
  | .rraZpx _ => 6
  | .rraAby _ => 7
  | .rraAbx _ => 7
  -- Stable illegal immediates and LAS (46, R311 to R315)
  | .ancImm0B _ => 2
  | .ancImm2B _ => 2
  | .alrImm _ => 2
  | .arrImm _ => 2
  | .axsImm _ => 2
  | .lasAby a => 4 + s.crossExtra (.aby a)
  -- Unstable opcodes (46, R316 to R321)
  | .lxaImm _ => 2
  | .xaaImm _ => 2
  | .shaIzy _ => 6
  | .shaAby _ => 5
  | .shxAby _ => 5
  | .shyAbx _ => 5
  | .tasAby _ => 5
  -- Undispatchable opcodes (46, R322)
  | .jam02 => 1
  | .jam12 => 1
  | .jam22 => 1
  | .jam32 => 1
  | .jam42 => 1
  | .jam52 => 1
  | .jam62 => 1
  | .jam72 => 1
  | .jam92 => 1
  | .jamB2 => 1
  | .jamD2 => 1
  | .jamF2 => 1

/-- No DMA transfer is pending and none can be requested before the next store: what the cycle counts of R178 exclude is excluded. -/
def State.quiet (s : State) : Prop := s.dma.haltReq = false ∧ s.apu.dmc.bytesRemaining = 0

/-! ### Invariants -/

/-- The raster pair is a valid point of the 262 by 341 raster (R34). -/
def State.RasterInv (s : State) : Prop := s.ppu.rasterValid

/-- Every memory is in canonical form. -/
def State.MemoryInv (s : State) : Prop := s.mem.wf = true ∧ s.ppu.memWf = true

/-- The sizes of the cartridge are legal and its tables are what `Remap` computes (R51, R61, R527). -/
def State.CartInv (s : State) : Prop := s.cart.sized = true ∧ s.cart.mapped

/-- The clocks agree: 12 master-clock units to a bus cycle, and every dot that fits has run (R82, R83). -/
def State.ClockInv (s : State) : Prop :=
  s.fault = none → s.clk.mclk = 12 * s.clk.cyc ∧ s.clk.ppuClk = 4 * ((s.clk.mclk - s.cfg.ppuOffset.val) / 4)

/-- The sprite units are eight and at most eight are in use (R41). -/
def State.SpriteInv (s : State) : Prop := s.ppu.sprites.length = 8 ∧ s.ppu.sprCount ≤ 8 ∧ s.ppu.sprNextCount ≤ 8

/-- An interrupt source that is inhibited or not enabled asserts no flag: the frame sequencer, the sample channel, the scanline counter (R466, R469, R535). -/
def State.MaskedIrqInv (s : State) : Prop :=
  (s.apu.seq.irqInhibit = true → s.apu.seq.irqFlag = false) ∧ (s.apu.dmc.irqEnabled = false → s.apu.dmc.irqFlag = false) ∧
    (∀ r, s.cart.mapper = .mmc3 r → r.irqEnabled = false → r.irqFlag = false)

/-- The DMA countdown and the delayed mode write keep their ranges (R30, R48). -/
def State.CounterInv (s : State) : Prop := s.dma.dmcWait ≤ 2 ∧ s.apu.seq.pendingDelay ≤ 4

end Sys2Proof.Machine
end

