-- ==== Sys2Proof/Certificates/Slice0/Obligations.lean ====
section
/-! DEFINITION. The statements for the provers. -/

open Sys2Proof Sys2Proof.Machine

/-! ### Encoding -/

/-- Decoding the bytes of any instruction gives it back, with every operand at every value, and leaves what follows (R130, R131, R134). -/
def Obligations.DecodeEncodeRoundTrip : Prop :=
  ∀ (i : Instr) (rest : List Byte), i.wf = true → decode (encode i ++ rest) = .ok (i, rest)

/-- Encoding what the decoder has read gives the bytes back; every string of three bytes or more decodes, and a shorter one is refused only because it ends too early (R131, R136). -/
def Obligations.EncodeDecodeRoundTrip : Prop :=
  (∀ (bytes rest : List Byte) (i : Instr), decode bytes = .ok (i, rest) → bytes = encode i ++ rest) ∧
  (∀ bytes : List Byte, 3 ≤ bytes.length → ∃ i rest, decode bytes = .ok (i, rest)) ∧
  (∀ (bytes : List Byte) (e : DecodeError), decode bytes = .error e →
    (bytes = [] ∧ e = .noOpcode) ∨ (∃ op rest, bytes = op :: rest ∧ e = .truncated op ∧ bytes.length < opLength op))

/-- Words written out from the spec's encodings, one for each family, decode to the instructions they stand for (R134). -/
def Obligations.DecodeSpecWords : Prop :=
  decode [0xA9, 0x80] = .ok (.ldaImm 0x80, []) ∧ decode [0x9D, 0x00, 0x12] = .ok (.staAbx 0x1200, []) ∧
  decode [0xBA] = .ok (.tsx, []) ∧ decode [0x7D, 0x34, 0x12] = .ok (.adcAbx 0x1234, []) ∧
  decode [0x24, 0x10] = .ok (.bitZp 0x10, []) ∧ decode [0xCA] = .ok (.dex, []) ∧
  decode [0x36, 0x10] = .ok (.rolZpx 0x10, []) ∧ decode [0xFE, 0xF0, 0x12] = .ok (.incAbx 0x12F0, []) ∧
  decode [0x6C, 0xFF, 0x02] = .ok (.jmpInd 0x02FF, []) ∧ decode [0x20, 0x00, 0x90] = .ok (.jsr 0x9000, []) ∧
  decode [0xD0, 0x05] = .ok (.bne 0x05, []) ∧ decode [0x68] = .ok (.pla, []) ∧ decode [0xF8] = .ok (.sed, []) ∧
  decode [0x00, 0xFF] = .ok (.brk, [0xFF]) ∧ decode [0x40] = .ok (.rti, []) ∧
  decode [0xB3, 0x10] = .ok (.laxIzy 0x10, []) ∧ decode [0x7B, 0xFF, 0x02] = .ok (.rraAby 0x02FF, []) ∧
  decode [0xCB, 0x0F] = .ok (.axsImm 0x0F, []) ∧ decode [0x9C, 0xF8, 0x04] = .ok (.shyAbx 0x04F8, []) ∧
  decode [0x92] = .ok (.jam92, [])

/-! ### The step loop -/

/-- When the bytes at `PC` are plain memory and decode to `i`, a step fetches them and nothing else, executes `i`, and then takes an interrupt if one is active (R160).
That the fetch does not read the third byte of a `JSR` but only looks at it, and that `BRK` is one byte, is the model's reading (log entry 8).
That for a `JAM` both `exec` and the step answer a next state, with `FAULT` set, is the model's reading too (log entry 9). -/
def Obligations.StepRunsDecodedInstruction : Prop :=
  ∀ (s : State) (bytes : List Byte) (i : Instr),
    s.fault = none → decode bytes = .ok (i, []) →
    (∀ (k : Nat) (b : Byte), bytes[k]? = some b → s.plainByte (s.cpu.pc + BitVec.ofNat 16 k) = some b) →
    ∃ u, fetchInstr s = (i, u) ∧ u.cpu = { s.cpu with pc := s.cpu.pc + BitVec.ofNat 16 (Instr.fetchLength i) } ∧ Untouched s u ∧
      ∃ t, exec i u = .next t ∧
        step s = .next (if t.fault = none ∧ (t.int.nmi.active = true ∨ t.int.irq.active = true) then interruptSequence t else t)

/-- A faulted machine has no step and no bus cycle (R31, R341). -/
def Obligations.FaultedMachineStops : Prop :=
  ∀ (s : State) (r : Fault), s.fault = some r →
    step s = .fault r ∧ ∀ (a : Word) (v : Byte), (memRead a s).2 = s ∧ memWrite a v s = s

/-- The state after reset (R53, R560, R565), with the model's own choices for what the spec leaves to the launch inputs (log entries 1 to 4). -/
def Obligations.ResetState : Prop :=
  State.reset.cpu = { a := 0, x := 0, y := 0, sp := 0xFD, pc := 0, p := Flags.ofByte 0x24 } ∧
  State.reset.cpu.p.toByte false = 0x24 ∧ State.reset.clk = { cyc := 7, mclk := 84, ppuClk := 80 } ∧
  State.reset.int = { nmi := ⟨false, false⟩, irq := ⟨false, false⟩, prevNmiLine := false } ∧
  State.reset.dma = { haltReq := false, spriteActive := false, spritePage := 0, dmcActive := false, dmcWait := 0 } ∧
  State.reset.fault = none ∧ State.reset.ppu.scanline = 0 ∧ State.reset.ppu.dot = 20 ∧ State.reset.ppu.frame = 0 ∧
  State.reset.ppu.ctrl = 0 ∧ State.reset.ppu.mask = 0 ∧ State.reset.ppu.v = 0 ∧ State.reset.ppu.t = 0 ∧ State.reset.ppu.w = false ∧
  State.reset.apu.seq.mode = false ∧ State.reset.apu.dmc.silence = true ∧ State.reset.pads.strobe = false

/-- Every invariant holds after reset. -/
def Obligations.ResetMeetsInvariants : Prop :=
  State.reset.RasterInv ∧ State.reset.MemoryInv ∧ State.reset.CartInv ∧ State.reset.ClockInv ∧ State.reset.SpriteInv ∧
  State.reset.CounterInv ∧ State.reset.MaskedIrqInv

/-- Power-on either answers no machine and `ConfigError`, or the state the reset sequence leaves: `A`, `X`, `Y` zero, `S = $FD`, `P = $24`, `CYC = 7`, no fault, tables as `Remap` computes them, `PC` from the reset vector (R342, R560, R565).
A well-formed image of a supported mapper starts; every other is refused (R528, R529). That an NES 2.0 image needs extended sizes exactly if one of its bytes 8 to 15 is not zero is the model's choice (log entry 13).
`reboot()` is power-on again with the same image, and no instruction and no reset changes what it answers (R563). -/
def Obligations.PowerOnState : Prop :=
  (∀ (cfg : Config) (l : Launch) (rom : List Byte),
    (∀ r, initMachine cfg l rom = .error r → r = .configError) ∧
    ((Header.read rom).ok rom = false → initMachine cfg l rom = .error .configError) ∧
    (mapperOf (Header.read rom).mapperNumber = none → initMachine cfg l rom = .error .configError) ∧
    (∀ m, (Header.read rom).ok rom = true → mapperOf (Header.read rom).mapperNumber = some m →
      ∃ s, initMachine cfg l rom = .ok s ∧ s.cart.mapper.banks = m.banks ∧ s.CartInv) ∧
    ((Header.read rom).ok rom = true ↔
      rom.take 4 = [0x4E, 0x45, 0x53, 0x1A] ∧ 1 ≤ (imageByte rom 4).toNat ∧
      16 + (if (imageByte rom 6).getLsbD 2 = true then 512 else 0) + 16384 * (imageByte rom 4).toNat + 8192 * (imageByte rom 5).toNat ≤ rom.length ∧
      ¬ ((imageByte rom 7).toNat / 4 % 4 = 2 ∧ ∃ k, 8 ≤ k ∧ k < 16 ∧ imageByte rom k ≠ 0)) ∧
    ∀ s, initMachine cfg l rom = .ok s →
      s.cpu.a = 0 ∧ s.cpu.x = 0 ∧ s.cpu.y = 0 ∧ s.cpu.sp = 0xFD ∧ s.cpu.p.toByte false = 0x24 ∧ s.clk.cyc = 7 ∧ s.clk.mclk = 84 ∧
      s.fault = none ∧ s.cfg = cfg ∧ s.cart.mapped ∧ s.mem = (Header.read rom).buffers rom l ∧
      (∀ lo hi, s.plainByte 0xFFFC = some lo → s.plainByte 0xFFFD = some hi → s.cpu.pc = word hi lo) ∧
      ∀ l' t, initMachine cfg l' rom = .ok t → reboot l' s = some t) ∧
  (∀ n : Nat, (mapperOf n).isSome = true ↔ n ∈ [0, 1, 2, 3, 4, 7]) ∧
  (∀ (l : Launch) (s : State), s.CartInv →
    (∀ t, step s = .next t → reboot l t = reboot l s) ∧ reboot l (warmReset s) = reboot l s ∧
    ∀ r, reboot l { s with fault := r } = reboot l s)

/-- A warm reset keeps `A`, `X`, `Y`, every RAM, the palette and the buttons, sets `I`, takes three from `S`, clears the PPU's control registers, and loads `PC` from the reset vector; a faulted machine stays as it is (R53, R561, R562).
It leaves the Delayed Flags and the DMA engine at rest, the channels silent and the sequencer restarted in its kept mode.
Of the PPU it keeps `V`, OAM and its pointer, the palette, `ioLatch` and the three status flags, and clears everything else but the framebuffer, if the sequence's reads at `PC` touch no PPU register; the raster has run 21 dots.
That a pending `$4017` write survives, and that a faulted machine is left whole, is the model's reading (log entry 20). -/
def Obligations.WarmResetState : Prop :=
  (∀ s r, s.fault = some r → (warmReset s).fault = some r) ∧
  ∀ s, s.fault = none → s.CartInv →
    (warmReset s).cpu = { s.cpu with pc := (warmReset s).cpu.pc, sp := s.cpu.sp - 3, p := { s.cpu.p with i := true } } ∧
    (warmReset s).mem = s.mem ∧ (warmReset s).fault = none ∧ (warmReset s).cfg = s.cfg ∧ (warmReset s).ppu.palette = s.ppu.palette ∧
    (warmReset s).ppu.ctrl = 0 ∧ (warmReset s).ppu.mask = 0 ∧ (warmReset s).ppu.t = 0 ∧ (warmReset s).ppu.fineX = 0 ∧
    (warmReset s).clk.cyc = s.clk.cyc + 7 ∧ (warmReset s).pads.buttons0 = s.pads.buttons0 ∧
    (warmReset s).cart.mapped ∧ (warmReset s).cart.mapper.banks = s.cart.mapper.powerOn ∧
    (∀ lo hi, (warmReset s).plainByte 0xFFFC = some lo → (warmReset s).plainByte 0xFFFD = some hi → (warmReset s).cpu.pc = word hi lo) ∧
    (warmReset s).pads.buttons1 = s.pads.buttons1 ∧ (warmReset s).pads.strobe = s.pads.strobe ∧
    (warmReset s).int = { nmi := ⟨false, false⟩, irq := ⟨false, false⟩, prevNmiLine := false } ∧
    (warmReset s).dma = { haltReq := false, spriteActive := false, spritePage := 0, dmcActive := false, dmcWait := 0 } ∧
    (∀ l ∈ [(warmReset s).apu.sq1.len, (warmReset s).apu.sq2.len, (warmReset s).apu.tri.len, (warmReset s).apu.noise.len],
      l.enabled = false ∧ l.value = 0) ∧
    (warmReset s).apu.dmc.bytesRemaining = 0 ∧ (warmReset s).apu.dmc.irqFlag = false ∧ (warmReset s).apu.seq.irqFlag = false ∧
    (warmReset s).apu.seq.irqInhibit = s.apu.seq.irqInhibit ∧
    (s.apu.seq.pendingDelay = 0 →
      (warmReset s).apu.seq = { s.apu.seq with irqFlag := false, step := 0, cycle := 7 }) ∧
    (warmReset s).ppu.w = false ∧
    (s.ClockInv → 1 ≤ s.clk.cyc →
      (warmReset s).ppu.scanline = 0 ∧ (warmReset s).ppu.dot = 21 ∧ (warmReset s).ppu.frame = 0 ∧ (warmReset s).ppu.suppressVbl = false ∧
      (¬ (0x2000 ≤ s.cpu.pc.toNat ∧ s.cpu.pc.toNat < 0x4000) →
        (warmReset s).ppu = { Ppu.powerOn with
          dot := 21, v := s.ppu.v, nmiOccurred := s.ppu.nmiOccurred, spriteZeroHit := s.ppu.spriteZeroHit,
          spriteOverflow := s.ppu.spriteOverflow, oam := s.ppu.oam, oamAddr := s.ppu.oamAddr, secOam := s.ppu.secOam,
          palette := s.ppu.palette, ioLatch := s.ppu.ioLatch, pixels := (warmReset s).ppu.pixels }))

/-! ### Invariants of every step -/

/-- Every step keeps every memory in canonical form. -/
def Obligations.StepKeepsMemoryForm : Prop := ∀ s t : State, s.MemoryInv → step s = .next t → t.MemoryInv

/-- Every step keeps the bank tables what `Remap` computes from the mapper's registers (R51, R64, R527). -/
def Obligations.StepKeepsMapping : Prop := ∀ s t : State, s.CartInv → step s = .next t → t.CartInv

/-- Every step that ends without a fault keeps the clocks in step: 12 master-clock units to a bus cycle, every dot that fits has run (R82, R83). -/
def Obligations.StepKeepsClocks : Prop := ∀ s t : State, s.ClockInv → step s = .next t → t.ClockInv

/-- Every step keeps the raster position inside 262 scanlines of 341 dots, and the sprite counts, the DMA countdown and the delayed mode write in their ranges (R30, R34, R41, R48). -/
def Obligations.StepKeepsRanges : Prop :=
  (∀ s t : State, s.RasterInv → step s = .next t → t.RasterInv) ∧ (∀ s t : State, s.SpriteInv → step s = .next t → t.SpriteInv) ∧
  (∀ s t : State, s.CounterInv → step s = .next t → t.CounterInv)

/-- Every step keeps an inhibited or disabled interrupt source silent (R461, R464, R466, R469, R535, R541). -/
def Obligations.StepKeepsMaskedIrqSilent : Prop := ∀ s t : State, s.MaskedIrqInv → step s = .next t → t.MaskedIrqInv

/-! ### Rules of the whole machine -/

/-- On a legal cartridge every instruction completes, and only the `JAM` opcodes fault: a step of a machine without a fault answers a next state, and that state has a fault exactly if the opcode fetched was a `JAM` (R341, R344, R345).
That a `JAM`'s step answers a next state with `FAULT` set, and only the step after it stops, is the model's reading (log entry 9). -/
def Obligations.OnlyJamFaults : Prop :=
  (∀ (i : Instr) (s : State), s.CartInv → s.fault = none → i ∉ jamForms.map Prod.fst →
    ∃ t, exec i s = .next t ∧ t.fault = none ∧ t.CartInv) ∧
  (∀ s : State, s.CartInv → s.fault = none →
    ∃ t, step s = .next t ∧ t.CartInv ∧ (t.fault = none ↔ (fetchInstr s).1 ∉ jamForms.map Prod.fst) ∧
      ∀ op, ((fetchInstr s).1, op) ∈ jamForms → t.fault = some (.undispatchableOpcode op s.cpu.pc))

/-- No step ever changes a byte of PRG ROM, nor of CHR ROM (R63, R69). -/
def Obligations.RomNeverChanges : Prop :=
  ∀ s t : State, s.CartInv → step s = .next t →
    t.mem.prg = s.mem.prg ∧ (s.cart.chrIsRam = false → t.mem.chr = s.mem.chr) ∧ t.cart.chrUnits = s.cart.chrUnits

/-- An instruction writes only the flags its rule lists (R25). -/
def Obligations.FlagWriters : Prop :=
  ∀ (i : Instr) (s t : State), exec i s = .next t →
    (t.cpu.p.c = s.cpu.p.c ∨ ∃ v z a, i ∈ carryWriters v z a) ∧ (t.cpu.p.v = s.cpu.p.v ∨ ∃ v z a, i ∈ overflowWriters v z a) ∧
    (t.cpu.p.i = s.cpu.p.i ∨ i ∈ maskWriters) ∧ (t.cpu.p.d = s.cpu.p.d ∨ i ∈ decimalWriters) ∧
    ((t.cpu.p.z = s.cpu.p.z ∧ t.cpu.p.n = s.cpu.p.n) ∨ ∃ v z a, i ∈ resultWriters v z a)

/-- `S` is written by `TXS`, `TAS`, `LAS`, the pushes and the pulls; after its bytes have been fetched, `PC` is written by jumps, calls, returns and branches alone; and no instruction changes the launch parameters or the host's buttons (R9, R21, R23, R371). -/
def Obligations.PointerWriters : Prop :=
  ∀ (i : Instr) (s t : State), exec i s = .next t →
    (t.cpu.sp = s.cpu.sp ∨ ∃ a, i ∈ stackWriters a) ∧ (t.cpu.pc = s.cpu.pc ∨ ∃ d a, i ∈ pcWriters d a s.cpu.p) ∧
    t.cfg = s.cfg ∧ t.pads.buttons0 = s.pads.buttons0 ∧ t.pads.buttons1 = s.pads.buttons1

/-- Every instruction takes the cycles of the table (R178): on a legal cartridge, without a fault and with no DMA transfer about, its own cycles and those of its fetch add up to the table's count; a step without an interrupt takes exactly that, an interrupt sequence seven.
That a `JAM` has a next state at all, one cycle later, is the model's reading (log entry 9). -/
def Obligations.CycleTable : Prop :=
  (∀ (i : Instr) (s : State), s.fault = none → s.CartInv → s.quiet →
    ∃ t, exec i s = .next t ∧ t.clk.cyc + Instr.fetchLength i = s.clk.cyc + Instr.cycles i s) ∧
  (∀ s : State, s.fault = none → s.CartInv → s.quiet →
    ∃ t, exec (fetchInstr s).1 (fetchInstr s).2 = .next t ∧ t.clk.cyc = s.clk.cyc + Instr.cycles (fetchInstr s).1 (fetchInstr s).2 ∧
      (t.int.nmi.active = false → t.int.irq.active = false → step s = .next t)) ∧
  (∀ s : State, s.fault = none → s.CartInv → s.quiet → (interruptSequence s).clk.cyc = s.clk.cyc + 7)

/-! ### Loads, arithmetic, logic, compare: the read instructions -/

/-- `LDA`, `LDX`, `LDY`, every form (R190 to R192). -/
def Obligations.Loads : Prop :=
  ∀ (v z : Byte) (a : Word) (s : State),
    (∀ f ∈ ldaForms v z a, ReadEffect f.1 f.2 (fun m c => { c with a := m, p := c.p.zn m }) s) ∧
    (∀ f ∈ ldxForms v z a, ReadEffect f.1 f.2 (fun m c => { c with x := m, p := c.p.zn m }) s) ∧
    (∀ f ∈ ldyForms v z a, ReadEffect f.1 f.2 (fun m c => { c with y := m, p := c.p.zn m }) s) ∧
    opcodes (ldaForms v z a) = [0xA1, 0xA5, 0xA9, 0xAD, 0xB1, 0xB5, 0xB9, 0xBD] ∧
    opcodes (ldxForms v z a) = [0xA2, 0xA6, 0xAE, 0xB6, 0xBE] ∧
    opcodes (ldyForms v z a) = [0xA0, 0xA4, 0xAC, 0xB4, 0xBC]

/-- `ADC`, `SBC` and the duplicate `*SBC`, every form: result, carry and signed overflow over the integers, whatever `D` holds (R220, R221, R237, R304). -/
def Obligations.AddSubtract : Prop :=
  ∀ (v z : Byte) (a : Word) (s : State),
    (∀ f ∈ adcForms v z a, ReadEffect f.1 f.2 Cpu.addition s) ∧ (∀ f ∈ sbcForms v z a, ReadEffect f.1 f.2 Cpu.subtraction s) ∧
    opcodes (adcForms v z a) = [0x61, 0x65, 0x69, 0x6D, 0x71, 0x75, 0x79, 0x7D] ∧
    opcodes (sbcForms v z a) = [0xE1, 0xE5, 0xE9, 0xED, 0xF1, 0xF5, 0xF9, 0xFD, 0xEB]

/-- `AND`, `ORA`, `EOR`, every form (R222 to R224). -/
def Obligations.Logic : Prop :=
  ∀ (v z : Byte) (a : Word) (s : State),
    (∀ f ∈ andForms v z a, ReadEffect f.1 f.2 (fun m c => { c with a := c.a &&& m, p := c.p.zn (c.a &&& m) }) s) ∧
    (∀ f ∈ oraForms v z a, ReadEffect f.1 f.2 (fun m c => { c with a := c.a ||| m, p := c.p.zn (c.a ||| m) }) s) ∧
    (∀ f ∈ eorForms v z a, ReadEffect f.1 f.2 (fun m c => { c with a := c.a ^^^ m, p := c.p.zn (c.a ^^^ m) }) s) ∧
    opcodes (andForms v z a) = [0x21, 0x25, 0x29, 0x2D, 0x31, 0x35, 0x39, 0x3D] ∧
    opcodes (oraForms v z a) = [0x01, 0x05, 0x09, 0x0D, 0x11, 0x15, 0x19, 0x1D] ∧
    opcodes (eorForms v z a) = [0x41, 0x45, 0x49, 0x4D, 0x51, 0x55, 0x59, 0x5D]

/-- `CMP`, `CPX`, `CPY` and `BIT`, every form (R225 to R228). -/
def Obligations.CompareAndTest : Prop :=
  ∀ (v z : Byte) (a : Word) (s : State),
    (∀ f ∈ cmpForms v z a, ReadEffect f.1 f.2 (fun m c => { c with p := c.p.compared c.a m }) s) ∧
    (∀ f ∈ cpxForms v z a, ReadEffect f.1 f.2 (fun m c => { c with p := c.p.compared c.x m }) s) ∧
    (∀ f ∈ cpyForms v z a, ReadEffect f.1 f.2 (fun m c => { c with p := c.p.compared c.y m }) s) ∧
    (∀ f ∈ bitForms z a,
      ReadEffect f.1 f.2 (fun m c => { c with p := { c.p with z := decide (c.a &&& m = 0), n := m.getLsbD 7, v := m.getLsbD 6 } }) s) ∧
    opcodes (cmpForms v z a) = [0xC1, 0xC5, 0xC9, 0xCD, 0xD1, 0xD5, 0xD9, 0xDD] ∧
    opcodes (cpxForms v z a) = [0xE0, 0xE4, 0xEC] ∧
    opcodes (cpyForms v z a) = [0xC0, 0xC4, 0xCC] ∧
    opcodes (bitForms z a) = [0x24, 0x2C]

/-- `NOP` and the 27 forms of `*NOP` change no register and no flag; the forms with an operand read it (R291, R301). -/
def Obligations.NoOperations : Prop :=
  ∀ (v z : Byte) (a : Word) (s : State),
    (∀ f ∈ nopForms v z a, ReadEffect f.1 f.2 (fun _ c => c) s) ∧ (∀ i ∈ nopImplied, ImpliedEffect i (fun c => c) s)

/-- `LAX`, every form, and `LAS` (R302, R315). -/
def Obligations.StableIllegalLoads : Prop :=
  ∀ (z : Byte) (a : Word) (s : State),
    (∀ f ∈ laxForms z a, ReadEffect f.1 f.2 (fun m c => { c with a := m, x := m, p := c.p.zn m }) s) ∧
    ReadEffect (.lasAby a) (.mem (.aby a))
      (fun m c => { c with a := m &&& c.sp, x := m &&& c.sp, sp := m &&& c.sp, p := c.p.zn (m &&& c.sp) }) s

/-- `ANC`, `ALR`, `ARR`, `AXS` (R311 to R314). -/
def Obligations.StableIllegalImmediates : Prop :=
  ∀ (m : Byte) (s : State),
    (∀ i ∈ [Instr.ancImm0B m, Instr.ancImm2B m],
      ReadEffect i (.imm m) (fun m c => { c with a := c.a &&& m, p := { c.p.zn (c.a &&& m) with c := (c.a &&& m).getLsbD 7 } }) s) ∧
    ReadEffect (.alrImm m) (.imm m)
      (fun m c => { c with a := (c.a &&& m) >>> 1, p := { c.p.zn ((c.a &&& m) >>> 1) with c := (c.a &&& m).getLsbD 0 } }) s ∧
    (∃ t, exec (.arrImm m) s = .next t ∧ Untouched s t ∧ t.cpu = { s.cpu with a := t.cpu.a, p := t.cpu.p } ∧
      t.cpu.a.toNat = (s.cpu.a &&& m).toNat / 2 + 128 * s.cpu.p.c.toNat ∧
      t.cpu.p = { s.cpu.p.zn t.cpu.a with c := t.cpu.a.getLsbD 6, v := t.cpu.a.getLsbD 6 ^^ t.cpu.a.getLsbD 5 }) ∧
    ReadEffect (.axsImm m) (.imm m) (fun m c => { c with x := (c.a &&& c.x) - m, p := c.p.compared (c.a &&& c.x) m }) s

/-! ### Implied instructions -/

/-- The register transfers: all but `TXS` set `Z` and `N` (R196 to R201). -/
def Obligations.RegisterTransfers : Prop :=
  ∀ s : State,
    ImpliedEffect .tax (fun c => { c with x := c.a, p := c.p.zn c.a }) s ∧ ImpliedEffect .tay (fun c => { c with y := c.a, p := c.p.zn c.a }) s ∧
    ImpliedEffect .txa (fun c => { c with a := c.x, p := c.p.zn c.x }) s ∧ ImpliedEffect .tya (fun c => { c with a := c.y, p := c.p.zn c.y }) s ∧
    ImpliedEffect .tsx (fun c => { c with x := c.sp, p := c.p.zn c.sp }) s ∧ ImpliedEffect .txs (fun c => { c with sp := c.x }) s ∧
    [Instr.tax, .tay, .txa, .tya, .tsx, .txs].map encode = [[0xAA], [0xA8], [0x8A], [0x98], [0xBA], [0x9A]]

/-- `INX`, `INY`, `DEX`, `DEY` wrap modulo 256 and set `Z` and `N` alone (R231 to R234). -/
def Obligations.RegisterSteps : Prop :=
  ∀ s : State,
    ImpliedEffect .inx (fun c => { c with x := BitVec.ofNat 8 (c.x.toNat + 1), p := c.p.zn (BitVec.ofNat 8 (c.x.toNat + 1)) }) s ∧
    ImpliedEffect .iny (fun c => { c with y := BitVec.ofNat 8 (c.y.toNat + 1), p := c.p.zn (BitVec.ofNat 8 (c.y.toNat + 1)) }) s ∧
    ImpliedEffect .dex (fun c => { c with x := BitVec.ofNat 8 (c.x.toNat + 255), p := c.p.zn (BitVec.ofNat 8 (c.x.toNat + 255)) }) s ∧
    ImpliedEffect .dey (fun c => { c with y := BitVec.ofNat 8 (c.y.toNat + 255), p := c.p.zn (BitVec.ofNat 8 (c.y.toNat + 255)) }) s ∧
    [Instr.inx, .iny, .dex, .dey].map encode = [[0xE8], [0xC8], [0xCA], [0x88]]

/-- The accumulator shifts and rotates over the integers: rotates are of nine bits, through `C` (R250 to R253). -/
def Obligations.AccumulatorShifts : Prop :=
  ∀ s : State,
    ImpliedEffect .aslAcc (fun c =>
      { c with a := BitVec.ofNat 8 (2 * c.a.toNat), p := { c.p.zn (BitVec.ofNat 8 (2 * c.a.toNat)) with c := c.a.getLsbD 7 } }) s ∧
    ImpliedEffect .lsrAcc (fun c =>
      { c with a := BitVec.ofNat 8 (c.a.toNat / 2), p := { c.p.zn (BitVec.ofNat 8 (c.a.toNat / 2)) with c := c.a.getLsbD 0 } }) s ∧
    ImpliedEffect .rolAcc (fun c =>
      { c with a := BitVec.ofNat 8 (2 * c.a.toNat + c.p.c.toNat),
               p := { c.p.zn (BitVec.ofNat 8 (2 * c.a.toNat + c.p.c.toNat)) with c := c.a.getLsbD 7 } }) s ∧
    ImpliedEffect .rorAcc (fun c =>
      { c with a := BitVec.ofNat 8 (c.a.toNat / 2 + 128 * c.p.c.toNat),
               p := { c.p.zn (BitVec.ofNat 8 (c.a.toNat / 2 + 128 * c.p.c.toNat)) with c := c.a.getLsbD 0 } }) s ∧
    [Instr.aslAcc, .lsrAcc, .rolAcc, .rorAcc].map encode = [[0x0A], [0x4A], [0x2A], [0x6A]]

/-- The seven flag instructions write exactly one flag (R284 to R290). -/
def Obligations.FlagInstructions : Prop :=
  ∀ s : State,
    ImpliedEffect .clc (fun c => { c with p := { c.p with c := false } }) s ∧ ImpliedEffect .sec (fun c => { c with p := { c.p with c := true } }) s ∧
    ImpliedEffect .cli (fun c => { c with p := { c.p with i := false } }) s ∧ ImpliedEffect .sei (fun c => { c with p := { c.p with i := true } }) s ∧
    ImpliedEffect .cld (fun c => { c with p := { c.p with d := false } }) s ∧ ImpliedEffect .sed (fun c => { c with p := { c.p with d := true } }) s ∧
    ImpliedEffect .clv (fun c => { c with p := { c.p with v := false } }) s ∧
    [Instr.clc, .sec, .cli, .sei, .cld, .sed, .clv].map encode = [[0x18], [0x38], [0x58], [0x78], [0xD8], [0xF8], [0xB8]]

/-! ### Stores and read-modify-write instructions -/

/-- `STA`, `STX`, `STY`, `SAX`, every form: one byte at the effective address, no register, no flag (R193 to R195, R303). -/
def Obligations.Stores : Prop :=
  ∀ (z : Byte) (a : Word) (s : State),
    (∀ f ∈ staForms z a, StoreEffect f.1 f.2 s.cpu.a s) ∧ (∀ f ∈ stxForms z a, StoreEffect f.1 f.2 s.cpu.x s) ∧
    (∀ f ∈ styForms z a, StoreEffect f.1 f.2 s.cpu.y s) ∧ (∀ f ∈ saxForms z a, StoreEffect f.1 f.2 (s.cpu.a &&& s.cpu.x) s) ∧
    opcodes (staForms z a) = [0x81, 0x85, 0x8D, 0x91, 0x95, 0x99, 0x9D] ∧
    opcodes (stxForms z a) = [0x86, 0x8E, 0x96] ∧
    opcodes (styForms z a) = [0x84, 0x8C, 0x94] ∧
    opcodes (saxForms z a) = [0x83, 0x87, 0x8F, 0x97]

/-- `ASL`, `LSR`, `ROL`, `ROR`, `INC`, `DEC` on memory, every form: two writes, then the flags (R176, R250 to R255). -/
def Obligations.MemoryShiftsAndSteps : Prop :=
  ∀ (z : Byte) (a : Word) (s : State), s.fault = none → s.CartInv →
    (∀ f ∈ aslForms z a, RmwEffect f.1 f.2 (fun v _ => v <<< 1) (fun v c => { c with p := { c.p.zn (v <<< 1) with c := v.getLsbD 7 } }) s) ∧
    (∀ f ∈ lsrForms z a, RmwEffect f.1 f.2 (fun v _ => v >>> 1) (fun v c => { c with p := { c.p.zn (v >>> 1) with c := v.getLsbD 0 } }) s) ∧
    (∀ f ∈ rolForms z a, RmwEffect f.1 f.2 (fun v p => BitVec.ofNat 8 (2 * v.toNat + p.c.toNat))
      (fun v c => { c with p := { c.p.zn (BitVec.ofNat 8 (2 * v.toNat + c.p.c.toNat)) with c := v.getLsbD 7 } }) s) ∧
    (∀ f ∈ rorForms z a, RmwEffect f.1 f.2 (fun v p => BitVec.ofNat 8 (v.toNat / 2 + 128 * p.c.toNat))
      (fun v c => { c with p := { c.p.zn (BitVec.ofNat 8 (v.toNat / 2 + 128 * c.p.c.toNat)) with c := v.getLsbD 0 } }) s) ∧
    (∀ f ∈ incForms z a, RmwEffect f.1 f.2 (fun v _ => v + 1) (fun v c => { c with p := c.p.zn (v + 1) }) s) ∧
    (∀ f ∈ decForms z a, RmwEffect f.1 f.2 (fun v _ => v - 1) (fun v c => { c with p := c.p.zn (v - 1) }) s) ∧
    opcodes (aslForms z a) = [0x06, 0x0E, 0x16, 0x1E] ∧
    opcodes (lsrForms z a) = [0x46, 0x4E, 0x56, 0x5E] ∧
    opcodes (rolForms z a) = [0x26, 0x2E, 0x36, 0x3E] ∧
    opcodes (rorForms z a) = [0x66, 0x6E, 0x76, 0x7E] ∧
    opcodes (incForms z a) = [0xE6, 0xEE, 0xF6, 0xFE] ∧
    opcodes (decForms z a) = [0xC6, 0xCE, 0xD6, 0xDE]

/-- `DCP` and `ISB`, every form: the decrement and compare, the increment and subtract (R305, R306). -/
def Obligations.IllegalStepForms : Prop :=
  ∀ (z : Byte) (a : Word) (s : State), s.fault = none → s.CartInv →
    (∀ f ∈ dcpForms z a, RmwEffect f.1 f.2 (fun v _ => v - 1) (fun v c => { c with p := c.p.compared c.a (v - 1) }) s) ∧
    (∀ f ∈ isbForms z a, RmwEffect f.1 f.2 (fun v _ => v + 1) (fun v c => c.subtraction (v + 1)) s) ∧
    opcodes (dcpForms z a) = [0xC3, 0xC7, 0xCF, 0xD3, 0xD7, 0xDB, 0xDF] ∧
    opcodes (isbForms z a) = [0xE3, 0xE7, 0xEF, 0xF3, 0xF7, 0xFB, 0xFF]

/-- `SLO`, `RLA`, `SRE`, `RRA`, every form: the shift of memory and the accumulator operation with its result (R307 to R310). -/
def Obligations.IllegalShiftForms : Prop :=
  ∀ (z : Byte) (a : Word) (s : State), s.fault = none → s.CartInv →
    (∀ f ∈ sloForms z a, RmwEffect f.1 f.2 (fun v _ => v <<< 1)
      (fun v c => { c with a := c.a ||| v <<< 1, p := { c.p.zn (c.a ||| v <<< 1) with c := v.getLsbD 7 } }) s) ∧
    (∀ f ∈ rlaForms z a, RmwEffect f.1 f.2 (fun v p => BitVec.ofNat 8 (2 * v.toNat + p.c.toNat))
      (fun v c => { c with a := c.a &&& BitVec.ofNat 8 (2 * v.toNat + c.p.c.toNat),
                           p := { c.p.zn (c.a &&& BitVec.ofNat 8 (2 * v.toNat + c.p.c.toNat)) with c := v.getLsbD 7 } }) s) ∧
    (∀ f ∈ sreForms z a, RmwEffect f.1 f.2 (fun v _ => v >>> 1)
      (fun v c => { c with a := c.a ^^^ v >>> 1, p := { c.p.zn (c.a ^^^ v >>> 1) with c := v.getLsbD 0 } }) s) ∧
    (∀ f ∈ rraForms z a, RmwEffect f.1 f.2 (fun v p => BitVec.ofNat 8 (v.toNat / 2 + 128 * p.c.toNat))
      (fun v c => Cpu.addition (BitVec.ofNat 8 (v.toNat / 2 + 128 * c.p.c.toNat)) { c with p := { c.p with c := v.getLsbD 0 } }) s) ∧
    opcodes (sloForms z a) = [0x03, 0x07, 0x0F, 0x13, 0x17, 0x1B, 0x1F] ∧
    opcodes (rlaForms z a) = [0x23, 0x27, 0x2F, 0x33, 0x37, 0x3B, 0x3F] ∧
    opcodes (sreForms z a) = [0x43, 0x47, 0x4F, 0x53, 0x57, 0x5B, 0x5F] ∧
    opcodes (rraForms z a) = [0x63, 0x67, 0x6F, 0x73, 0x77, 0x7B, 0x7F]

/-! ### Control -/

/-- `JMP` absolute and indirect; the pointer's high byte comes from the page of its low byte (R260, R261). -/
def Obligations.Jumps : Prop :=
  ∀ (a : Word) (s : State),
    exec (.jmpAbs a) s = .next (s.setCpu { s.cpu with pc := a }) ∧
    ∃ t, exec (.jmpInd a) s = .next t ∧ Untouched s t ∧ t.cpu = { s.cpu with pc := t.cpu.pc } ∧
      (s.fault = none → ∀ l h, s.plainByte a = some l → s.plainByte (word (hi a) (lo a + 1)) = some h → t.cpu.pc = word h l)

/-- `JSR` pushes the address of its own last byte, high byte first, and takes the target's high byte from memory after the pushes; `RTS` pulls an address, low byte first, and continues at that address plus one (R262, R263). -/
def Obligations.Subroutines : Prop :=
  (∀ (a : Word) (s : State),
    ∃ t, exec (.jsr a) s = .next t ∧ RestUntouched s t ∧ t.cpu = { s.cpu with pc := t.cpu.pc, sp := s.cpu.sp - 2 } ∧ lo t.cpu.pc = lo a ∧
      (s.fault = none →
        t.mem = { s.mem with ram := (s.mem.ram.write (256 + s.cpu.sp.toNat) (hi s.cpu.pc)).write (256 + (s.cpu.sp - 1).toNat) (lo s.cpu.pc) } ∧
        ∀ h, ({ s with mem := t.mem } : State).plainByte s.cpu.pc = some h → t.cpu.pc = word h (lo a))) ∧
  (∀ s : State,
    ∃ t, exec .rts s = .next t ∧ Untouched s t ∧ t.cpu = { s.cpu with pc := t.cpu.pc, sp := s.cpu.sp + 2 } ∧
      (s.fault = none → t.cpu.pc = word (s.mem.ram.read (256 + (s.cpu.sp + 2).toNat)) (s.mem.ram.read (256 + (s.cpu.sp + 1).toNat)) + 1))

/-- An `RTS` executed at once after a `JSR` restores every register and continues after the `JSR` (R262, R263, R273). -/
def Obligations.CallThenReturn : Prop :=
  ∀ (a : Word) (s t : State), s.fault = none → s.mem.wf = true → exec (.jsr a) s = .next t →
    ∃ u, exec .rts t = .next u ∧ u.cpu = { s.cpu with pc := s.cpu.pc + 1 }

/-- The eight branches: taken on their condition, to the signed displacement from the next instruction; no flag changes (R264 to R272). -/
def Obligations.Branches : Prop :=
  ∀ (d : Byte) (s : State), (∀ f ∈ branchForms d s.cpu.p, BranchEffect f.1 d f.2 s) ∧
    opcodes (branchForms d s.cpu.p) = [0x90, 0xB0, 0xF0, 0xD0, 0x30, 0x10, 0x50, 0x70]

/-! ### Stack, exceptions -/

/-- The status register as a byte: its eight bits, and what a pull keeps of a byte (R24, R281, R283). -/
def Obligations.StatusByte : Prop :=
  (∀ (p : Flags) (b : Bool), Flags.ofByte (p.toByte b) = p ∧
    (p.toByte b).toNat = p.c.toNat + 2 * p.z.toNat + 4 * p.i.toNat + 8 * p.d.toNat + 16 * b.toNat + 32 + 64 * p.v.toNat + 128 * p.n.toNat) ∧
  (∀ v : Byte, (Flags.ofByte v).toByte false = (v &&& 0xCF) ||| 0x20)

/-- `PHA` and `PHP` store one byte of page 1 and decrement `S`; the pushed status has bits 4 and 5 set (R173, R280, R281). -/
def Obligations.Pushes : Prop :=
  ∀ s : State, ∀ f ∈ [(Instr.pha, s.cpu.a), (Instr.php, s.cpu.p.toByte true)],
    ∃ t, exec f.1 s = .next t ∧ RestUntouched s t ∧ t.cpu = { s.cpu with sp := s.cpu.sp - 1 } ∧
      (s.fault = none → t.mem = { s.mem with ram := s.mem.ram.write (256 + s.cpu.sp.toNat) f.2 })

/-- `PLA` and `PLP` increment `S` and take the byte it then addresses; bits 4 and 5 of a pulled status are ignored (R173, R282, R283). -/
def Obligations.Pulls : Prop :=
  ∀ s : State,
    (∃ t, exec .pla s = .next t ∧ Untouched s t ∧ t.cpu = { s.cpu with sp := s.cpu.sp + 1, a := t.cpu.a, p := s.cpu.p.zn t.cpu.a } ∧
      (s.fault = none → t.cpu.a = s.mem.ram.read (256 + (s.cpu.sp + 1).toNat))) ∧
    (∃ t, exec .plp s = .next t ∧ Untouched s t ∧ t.cpu = { s.cpu with sp := s.cpu.sp + 1, p := t.cpu.p } ∧
      (s.fault = none → t.cpu.p.toByte false = (s.mem.ram.read (256 + (s.cpu.sp + 1).toNat) &&& 0xCF) ||| 0x20))

/-- `BRK` takes the exception: the address after its padding byte and `P` with `B` set on the stack, `I` set, `PC` from the vector (R292, R353). -/
def Obligations.SoftwareInterrupt : Prop :=
  ∀ s : State, ∃ t, exec .brk s = .next t ∧
    EntryEffect true (s.setPc (s.cpu.pc + 1)) ((dummyRead s.cpu.pc s).setPc (s.cpu.pc + 1)) t

/-- `RTI` restores the six flags and `PC` from the stack (R293). -/
def Obligations.ReturnFromInterrupt : Prop :=
  ∀ s : State, ∃ t, exec .rti s = .next t ∧ Untouched s t ∧ t.cpu = { s.cpu with pc := t.cpu.pc, sp := s.cpu.sp + 3, p := t.cpu.p } ∧
    (s.fault = none →
      t.cpu.p.toByte false = (s.mem.ram.read (256 + (s.cpu.sp + 1).toNat) &&& 0xCF) ||| 0x20 ∧
      t.cpu.pc = word (s.mem.ram.read (256 + (s.cpu.sp + 3).toNat)) (s.mem.ram.read (256 + (s.cpu.sp + 2).toNat)))

/-- The interrupt sequence takes the exception: `PC` and `P` with `B` clear on the stack, `I` set, `PC` from the vector; a pending NMI has priority and is consumed when its vector is selected (R352, R353). -/
def Obligations.InterruptEntry : Prop :=
  (∀ s : State, EntryEffect false s (dummyRead s.cpu.pc (dummyRead s.cpu.pc s)) (interruptSequence s)) ∧
  (∀ s : State, s.int.nmi.pending = true →
    selectVector s = (0xFFFA, { s with int := { s.int with nmi := { pending := false, active := false } } })) ∧
  (∀ s : State, s.int.nmi.pending = false → selectVector s = (0xFFFE, s))

/-- An `RTI` executed at once after an interrupt sequence restores every register of the interrupted program; after a `BRK`, every register, and `PC` at the byte after the padding byte (R293, R350, R355). -/
def Obligations.InterruptThenReturn : Prop :=
  (∀ s : State, s.fault = none → s.mem.wf = true → ∃ u, exec .rti (interruptSequence s) = .next u ∧ u.cpu = s.cpu) ∧
  (∀ s t : State, s.fault = none → s.mem.wf = true → exec .brk s = .next t →
    ∃ u, exec .rti t = .next u ∧ u.cpu = { s.cpu with pc := s.cpu.pc + 1 })

/-! ### Unstable and undispatchable opcodes -/

/-- `LXA` and `XAA`: the registers and flags that may change change to a free value, and nothing else does but the model's own draw counter (R316, R317, R323). -/
def Obligations.UnstableLoads : Prop :=
  ∀ (m : Byte) (s : State),
    (∃ v, exec (.lxaImm m) s = .next { s with cpu := { s.cpu with a := v, x := v, p := s.cpu.p.zn v }, draws := s.draws + 1 }) ∧
    (∃ v, exec (.xaaImm m) s = .next { s with cpu := { s.cpu with a := v, p := s.cpu.p.zn v }, draws := s.draws + 1 })

/-- `SHA`, `SHX`, `SHY`, `TAS` store one free byte, at the effective address, or at one with its low byte if the index crossed a page; only `TAS` changes a register, `S` (R318 to R321, R323). -/
def Obligations.UnstableStores : Prop :=
  ∀ (z : Byte) (a : Word) (s : State),
    UnstableStoreEffect (.shaIzy z) (.izy z) s s ∧ UnstableStoreEffect (.shaAby a) (.aby a) s s ∧
    UnstableStoreEffect (.shxAby a) (.aby a) s s ∧ UnstableStoreEffect (.shyAbx a) (.abx a) s s ∧
    UnstableStoreEffect (.tasAby a) (.aby a) (s.setSp (s.cpu.a &&& s.cpu.x)) s

/-- The twelve `JAM` opcodes record the fault with the opcode and its address and do nothing more; the step that fetched one has made one bus cycle, takes no interrupt, and is the last (R322, R344).
That both answer a next state with `FAULT` set, and only the step after them stops, is the model's reading (log entry 9). -/
def Obligations.JamFaults : Prop :=
  ∀ f ∈ jamForms, ∀ s : State,
    exec f.1 s = .next { s with fault := some (.undispatchableOpcode f.2 (s.cpu.pc - 1)) } ∧
    (s.fault = none → s.dma.haltReq = false → s.plainByte s.cpu.pc = some f.2 →
      ∃ t, step s = .next t ∧ t.fault = some (.undispatchableOpcode f.2 s.cpu.pc) ∧ t.clk.cyc = s.clk.cyc + 1 ∧
        t.cpu = { s.cpu with pc := s.cpu.pc + 1 } ∧ t.mem = s.mem ∧ step t = .fault (.undispatchableOpcode f.2 s.cpu.pc))

/-! ### Interrupt lines, the bus cycle, DMA -/

/-- The sample of the interrupt lines: the Delayed Flags advance by one cycle, an NMI needs a rising edge and stays pending, an IRQ is a level masked by `I` (R346 to R349). -/
def Obligations.InterruptSampling : Prop :=
  (∀ s : State, (sampleLines s).int.nmi.active = s.int.nmi.pending ∧ (sampleLines s).int.irq.active = s.int.irq.pending ∧
    ((sampleLines s).int.nmi.pending = true ↔
      s.int.nmi.pending = true ∨ ((s.ppu.nmiOccurred = true ∧ s.ppu.ctrl.getLsbD 7 = true) ∧ s.int.prevNmiLine = false)) ∧
    ((sampleLines s).int.irq.pending = true ↔
      (s.apu.seq.irqFlag = true ∨ s.apu.dmc.irqFlag = true ∨ s.cart.mapper.irqLine = true) ∧ s.cpu.p.i = false)) ∧
  (∀ s : State, s.int.nmi = { pending := false, active := false } → s.int.prevNmiLine = true →
    (sampleLines s).int.nmi = { pending := false, active := false }) ∧
  (∀ (a : Word) (s : State), (readCycle a s).2.int = (sampleLines (busRead a (startTick .read s)).2).int)

/-- A bus cycle takes 12 master-clock units and three dots, one or two of them before the access as `PPU_OFFSET` and the kind of access say, and one APU cycle, before the access (R80, R83, R86, R87, R451).
The frame sequencer of that APU cycle clocks envelopes, linear counter, length counters and sweeps and asserts its interrupt at the offsets of its mode, and applies a delayed mode write when its delay ends (R454, R465, R466). -/
def Obligations.BusCycleTiming : Prop :=
  (∀ s : State, s.clk.mclk = 12 * s.clk.cyc → s.clk.ppuClk = 4 * ((s.clk.mclk - s.cfg.ppuOffset.val) / 4) → 1 ≤ s.clk.cyc →
    (∀ a, (readCycle a s).2.clk = { cyc := s.clk.cyc + 1, mclk := s.clk.mclk + 12, ppuClk := s.clk.ppuClk + 12 }) ∧
    (∀ a v, (writeCycle a v s).fault = none →
      (writeCycle a v s).clk = { cyc := s.clk.cyc + 1, mclk := s.clk.mclk + 12, ppuClk := s.clk.ppuClk + 12 }) ∧
    (startTick .read s).clk.ppuClk = s.clk.ppuClk + 4 * (if s.cfg.ppuOffset.val = 1 then 2 else 1) ∧
    (startTick .write s).clk.ppuClk = s.clk.ppuClk + 4 * (if s.cfg.ppuOffset.val = 0 then 1 else 2)) ∧
  (∀ (k : Access) (s : State), (startTick k s).apu = (s.apu.apuStep s.cfg (s.clk.cyc + 1)).1 ∧
    (startTick k s).apu.seq = s.apu.sequencerStep.seq ∧ (endTick k s).apu = s.apu) ∧
  (∀ a : Apu, a.seq.pendingDelay ≠ 1 →
    let n := a.seq.cycle + 1
    let last := if a.seq.mode = true then 37281 else 29829
    let b := if n ∈ [7457, 14913, 22371, last] then a.quarter else a
    let c := if n ∈ [14913, last] then b.half else b
    a.sequencerStep = { c with seq := { a.seq with
      pendingDelay := a.seq.pendingDelay - 1
      cycle := if n = last + 1 then 0 else n
      irqFlag := a.seq.irqFlag || (!a.seq.mode && decide (29828 ≤ n ∧ n ≤ 29830) && !a.seq.irqInhibit)
      step := if n = 7457 then 1 else if n = 14913 then 2 else if n = 22371 then 3 else if n = last then 0
              else if n = 29829 then 4 else a.seq.step } }) ∧
  (∀ a : Apu, a.seq.pendingDelay = 1 →
    a.sequencerStep = { (if a.seq.pendingValue.getLsbD 7 = true then a.quarter.half else a) with seq := { a.seq with
      pendingDelay := 0, mode := a.seq.pendingValue.getLsbD 7, cycle := 1, step := 0 } }) ∧
  (∀ a : Apu,
    (∀ l ∈ [(a.sq1.len, a.half.sq1.len), (a.sq2.len, a.half.sq2.len), (a.tri.len, a.half.tri.len), (a.noise.len, a.half.noise.len)],
      l.2 = { l.1 with value := l.2.value } ∧ l.2.value.toNat = (if l.1.halt = true then l.1.value.toNat else l.1.value.toNat - 1)) ∧
    (∀ e ∈ [(a.sq1.env, a.sq1.len.halt, a.quarter.sq1.env), (a.sq2.env, a.sq2.len.halt, a.quarter.sq2.env),
            (a.noise.env, a.noise.len.halt, a.quarter.noise.env)],
      e.2.2.start = false ∧ e.2.2.constant = e.1.constant ∧ e.2.2.period = e.1.period ∧
      e.2.2.divider.toNat = (if e.1.start = true ∨ e.1.divider = 0 then e.1.period.toNat else e.1.divider.toNat - 1) ∧
      e.2.2.decay.toNat = (if e.1.start = true then 15 else if e.1.divider ≠ 0 then e.1.decay.toNat
        else if e.1.decay = 0 ∧ e.2.1 = true then 15 else e.1.decay.toNat - 1)) ∧
    a.quarter.tri.linearCounter.toNat =
      (if a.tri.linearReload = true then a.tri.linearReloadValue.toNat else a.tri.linearCounter.toNat - 1) ∧
    a.quarter.tri.linearReload = (a.tri.linearReload && a.tri.len.halt))

/-- A sprite transfer alone costs 513 bus cycles when its halt cycle starts with `CYC` odd, else 514, and ends the transfer (R100 to R102).
A sample fetch alone costs 3 cycles when its halt cycle starts with `CYC` even, else 4 (R103); it delivers the byte at the channel's address and advances the channel, restarts it or raises its interrupt with the last byte, and is discarded by a channel that has none left (R468, R469).
The channel's output unit asks for a byte exactly when it has taken the buffer's and more remain (R103, R467). -/
def Obligations.SpriteDmaCost : Prop :=
  (∀ (a : Word) (s : State), s.dma.spriteActive = true → s.dma.dmcActive = false → s.apu.dmc.bytesRemaining = 0 →
    (runDma a s).clk.cyc = s.clk.cyc + (if s.clk.cyc % 2 = 1 then 513 else 514) ∧
    (runDma a s).dma.spriteActive = false ∧ (runDma a s).dma.haltReq = false ∧ (runDma a s).cpu = s.cpu ∧ (runDma a s).mem = s.mem) ∧
  (∀ (a : Word) (s : State), s.dma.spriteActive = false → s.dma.dmcActive = true → s.dma.dmcWait = 2 →
    (runDma a s).clk.cyc = s.clk.cyc + (if s.clk.cyc % 2 = 0 then 3 else 4) ∧
    (runDma a s).dma.dmcActive = false ∧ (runDma a s).dma.haltReq = false ∧ (runDma a s).cpu = s.cpu ∧ (runDma a s).mem = s.mem ∧
    (s.apu.dmc.bytesRemaining = 0 →
      (runDma a s).apu.dmc.bytesRemaining = 0 ∧ (runDma a s).apu.dmc.curAddr = s.apu.dmc.curAddr ∧
      (runDma a s).apu.dmc.irqFlag = s.apu.dmc.irqFlag) ∧
    (s.apu.dmc.bytesRemaining ≠ 0 → (runDma a s).apu.dmc.bufferFull = true ∧
      ∀ v, s.plainByte s.apu.dmc.curAddr = some v → (runDma a s).apu.dmc.sampleBuffer = v) ∧
    (1 < s.apu.dmc.bytesRemaining.toNat →
      (runDma a s).apu.dmc.bytesRemaining.toNat = s.apu.dmc.bytesRemaining.toNat - 1 ∧
      (runDma a s).apu.dmc.curAddr = (if s.apu.dmc.curAddr = 0xFFFF then 0x8000 else s.apu.dmc.curAddr + 1) ∧
      (runDma a s).apu.dmc.irqFlag = s.apu.dmc.irqFlag) ∧
    (s.apu.dmc.bytesRemaining = 1 → s.apu.dmc.loop = true →
      s.apu.dmc.Restarted (runDma a s).apu.dmc ∧ (runDma a s).apu.dmc.irqFlag = s.apu.dmc.irqFlag) ∧
    (s.apu.dmc.bytesRemaining = 1 → s.apu.dmc.loop = false →
      (runDma a s).apu.dmc.bytesRemaining = 0 ∧ (runDma a s).apu.dmc.irqFlag = (s.apu.dmc.irqFlag || s.apu.dmc.irqEnabled))) ∧
  (∀ (s : State), (apuCycle s).dma =
    if s.apu.dmc.timer = 0 ∧ s.apu.dmc.bitsRemaining = 1 ∧ s.apu.dmc.bufferFull = true ∧ s.apu.dmc.bytesRemaining ≠ 0 ∧
      s.dma.dmcActive = false then { s.dma with dmcActive := true, dmcWait := 2, haltReq := true } else s.dma) ∧
  (∀ d : Dmc, d.timer ≠ 0 → d.timerStep.1 = { d with timer := d.timer - 1 }) ∧
  (∀ d : Dmc, d.timer = 0 →
    d.timerStep.1 = { d with
      timer := d.timerStep.1.timer, outputLevel := d.timerStep.1.outputLevel, shiftReg := d.timerStep.1.shiftReg,
      bitsRemaining := d.timerStep.1.bitsRemaining, silence := d.timerStep.1.silence, bufferFull := d.timerStep.1.bufferFull } ∧
    d.timerStep.1.timer.toNat =
      ([428, 380, 340, 320, 286, 254, 226, 214, 190, 160, 142, 128, 106, 84, 72, 54] : List Nat).getD d.rateIndex.toNat 0 - 1 ∧
    d.timerStep.1.outputLevel.toNat =
      (if d.silence = true then d.outputLevel.toNat
       else if d.shiftReg.getLsbD 0 = true then (if d.outputLevel.toNat ≤ 125 then d.outputLevel.toNat + 2 else d.outputLevel.toNat)
       else (if 2 ≤ d.outputLevel.toNat then d.outputLevel.toNat - 2 else d.outputLevel.toNat)) ∧
    (d.bitsRemaining ≠ 1 → d.timerStep.1.bitsRemaining = d.bitsRemaining - 1 ∧ d.timerStep.1.shiftReg.toNat = d.shiftReg.toNat / 2 ∧
      d.timerStep.1.silence = d.silence ∧ d.timerStep.1.bufferFull = d.bufferFull) ∧
    (d.bitsRemaining = 1 → d.timerStep.1.bitsRemaining = 8 ∧ d.timerStep.1.bufferFull = false ∧ d.timerStep.1.silence = !d.bufferFull ∧
      (d.bufferFull = true → d.timerStep.1.shiftReg = d.sampleBuffer)))

/-! ### The picture processor -/

/-- The raster advances dot by dot, line by line, and drops the last dot of an odd frame while rendering; the frame counter counts at scanline 240; the vertical-blank flag is set at (241, 1) unless suppressed and cleared with the sprite flags at (261, 1), and at no other dot (R385, R389 to R391, R394).
On a visible scanline while rendering, dot 1 clears secondary OAM, dots 1 to 256 output a pixel each, dot 257 selects the sprites of the next line, dot 321 loads them (R410 to R418); without rendering dots 1 to 256 output the backdrop (R421). -/
def Obligations.RasterAndVblankDots : Prop :=
  ∀ (mem : Buffers) (now : Nat) (p : Ppu) (c : Cart), p.rasterValid →
    let q := (p.dotStep mem now c).1
    (q.scanline, q.dot) =
      (if p.scanline = 261 ∧ p.dot = 339 ∧ p.rendering = true ∧ p.frame % 2 = 1 then (0, 0)
       else if p.dot = 340 then (if p.scanline = 261 then 0 else p.scanline + 1, 0) else (p.scanline, p.dot + 1)) ∧
    q.frame = (if p.scanline = 240 ∧ p.dot = 0 then p.frame + 1 else p.frame) ∧
    q.nmiOccurred = (if p.scanline = 241 ∧ p.dot = 1 then p.nmiOccurred || !p.suppressVbl
                     else if p.scanline = 261 ∧ p.dot = 1 then false else p.nmiOccurred) ∧
    (p.scanline = 261 → p.dot = 1 → q.spriteZeroHit = false ∧ q.spriteOverflow = false) ∧
    (p.scanline ≤ 239 → p.rendering = true → p.dot = 1 → ∀ k, k < 32 → q.secOam.read k = 0xFF) ∧
    (p.scanline ≤ 239 → p.rendering = true → p.dot = 257 → p.secOam.wf = true → p.Selected p.scanline q) ∧
    (p.scanline ≤ 239 → p.rendering = true → p.dot = 321 → p.SpritesLoaded (c.ppuSpace.read mem) p.scanline q) ∧
    (p.scanline ≤ 239 → p.rendering = true → 1 ≤ p.dot → p.dot ≤ 256 → Pixels.wf p.pixels = true →
      p.PixelOut p.scanline (p.dot - 1) q) ∧
    (p.scanline ≤ 239 → p.rendering = false → 1 ≤ p.dot → p.dot ≤ 256 → Pixels.wf p.pixels = true →
      (Pixels.read q.pixels (256 * p.scanline + (p.dot - 1))).toNat = p.pixelOf (p.palette.read 0)) ∧
    (q.spriteZeroHit ≠ p.spriteZeroHit →
      (p.scanline = 261 ∧ p.dot = 1) ∨ (p.scanline ≤ 239 ∧ p.rendering = true ∧ 1 ≤ p.dot ∧ p.dot ≤ 255)) ∧
    (q.spriteOverflow ≠ p.spriteOverflow → (p.scanline = 261 ∧ p.dot = 1) ∨ (p.scanline ≤ 239 ∧ p.rendering = true ∧ p.dot = 257))

/-- A store to `PPUCTRL`, `PPUMASK`, `PPUSCROLL` or `PPUADDR`, at any mirror of its address (R36, R401, R402, R406, R407). -/
def Obligations.PpuControlPorts : Prop :=
  ∀ (a : Word) (s : State), s.fault = none → 0x2000 ≤ a.toNat → a.toNat < 0x4000 →
    ∃ t, exec (.staAbs a) s = .next t ∧ t.cpu = s.cpu ∧
      (a.toNat % 8 = 0 → t.ppu.ctrl = s.cpu.a ∧ t.ppu.t.toNat = s.ppu.t.toNat % 1024 + 1024 * (s.cpu.a.toNat % 4) + 4096 * (s.ppu.t.toNat / 4096)) ∧
      (a.toNat % 8 = 1 → t.ppu.mask = s.cpu.a) ∧
      (a.toNat % 8 = 5 → s.ppu.w = false →
        t.ppu.t.toNat = 32 * (s.ppu.t.toNat / 32) + s.cpu.a.toNat / 8 ∧ t.ppu.fineX.toNat = s.cpu.a.toNat % 8 ∧ t.ppu.w = true) ∧
      (a.toNat % 8 = 5 → s.ppu.w = true →
        t.ppu.t.toNat = s.ppu.t.toNat % 32 + 32 * (s.cpu.a.toNat / 8) + 1024 * (s.ppu.t.toNat / 1024 % 4) + 4096 * (s.cpu.a.toNat % 8) ∧ t.ppu.w = false) ∧
      (a.toNat % 8 = 6 → s.ppu.w = false → t.ppu.t.toNat = s.ppu.t.toNat % 256 + 256 * (s.cpu.a.toNat % 64) ∧ t.ppu.w = true) ∧
      (a.toNat % 8 = 6 → s.ppu.w = true → t.ppu.t.toNat = 256 * (s.ppu.t.toNat / 256) + s.cpu.a.toNat ∧ t.ppu.w = false ∧
        (s.ppu.rendering = false → t.ppu.v = t.ppu.t))

/-- A store to `OAMADDR`, `OAMDATA` or `PPUDATA`, and a load from `OAMDATA` or `PPUDATA`, while rendering is disabled (R78, R404, R405, R408, R409): a load from `PPUDATA` answers the read buffer, and the buffer takes the byte `V` addresses; in the palette it answers the palette entry, and the buffer takes the nametable byte under it. -/
def Obligations.PpuDataPorts : Prop :=
  ∀ (a : Word) (s : State), s.fault = none → 0x2000 ≤ a.toNat → a.toNat < 0x4000 → s.ppu.rendering = false →
    (∃ t, exec (.staAbs a) s = .next t ∧ t.cpu = s.cpu ∧
      (a.toNat % 8 = 3 → t.ppu.oamAddr = s.cpu.a ∧ t.mem = s.mem ∧ t.ppu.oam = s.ppu.oam) ∧
      (a.toNat % 8 = 4 → t.ppu.oamAddr = s.ppu.oamAddr + 1 ∧ t.mem = s.mem ∧
        t.ppu.oam = s.ppu.oam.write s.ppu.oamAddr.toNat (if s.ppu.oamAddr.toNat % 4 = 2 then s.cpu.a &&& 0xE3 else s.cpu.a)) ∧
      (a.toNat % 8 = 7 → t.ppu.v = s.ppu.v + (if s.ppu.ctrl.getLsbD 2 = true then 32 else 1) ∧
        (s.ppu.v.toNat % 16384 < 0x3F00 → t.ppu.palette = s.ppu.palette ∧
          t.mem = s.mem.storeAt (s.cart.ppuSpace.place (s.ppu.v.toNat % 16384)) s.cpu.a) ∧
        (0x3F00 ≤ s.ppu.v.toNat % 16384 → t.mem = s.mem ∧
          t.ppu.palette = s.ppu.palette.write
            (if s.ppu.v.toNat % 4 = 0 then s.ppu.v.toNat % 16 else s.ppu.v.toNat % 32) (s.cpu.a &&& 0x3F)))) ∧
    (s.dma.haltReq = false →
      ∃ t, exec (.ldaAbs a) s = .next t ∧ Untouched s t ∧ t.cpu = { s.cpu with a := t.cpu.a, p := s.cpu.p.zn t.cpu.a } ∧
        (a.toNat % 8 = 4 → t.cpu.a = s.ppu.oam.read s.ppu.oamAddr.toNat ∧ t.ppu.oam = s.ppu.oam ∧ t.ppu.oamAddr = s.ppu.oamAddr ∧
          t.ppu.ioLatch = t.cpu.a) ∧
        (a.toNat % 8 = 7 → t.ppu.v = s.ppu.v + (if s.ppu.ctrl.getLsbD 2 = true then 32 else 1) ∧ t.ppu.ioLatch = t.cpu.a ∧
          (s.ppu.v.toNat % 16384 < 0x3F00 → t.cpu.a = s.ppu.readBuffer ∧
            ∀ b, s.cart.ppuSpace.read s.mem (s.ppu.v.toNat % 16384) = some b → t.ppu.readBuffer = b) ∧
          (0x3F00 ≤ s.ppu.v.toNat % 16384 →
            t.cpu.a = ((s.ppu.palette.read (if s.ppu.v.toNat % 4 = 0 then s.ppu.v.toNat % 16 else s.ppu.v.toNat % 32)
              &&& (if s.ppu.mask.getLsbD 0 = true then 0x30 else 0x3F)) ||| (s.ppu.ioLatch &&& 0xC0)) ∧
            ∀ b, s.cart.ppuSpace.read s.mem (s.ppu.v.toNat % 16384 - 0x1000) = some b → t.ppu.readBuffer = b)))

/-- A load from `PPUSTATUS` answers the three flags and the low bits of the port latch as they stand at the access, and clears the vertical-blank flag and the write toggle (R403).
A load whose access finds dot (241, 1) next mutes that frame's vertical blank: the flag is not set at that dot (R391, R392).
Where (241, 1) is the second dot of the second half-step, R571 (b) mutes it too and R403's test does not: the model's parameter `muteWindow` holds the reading, and both are stated (log entry 27). -/
def Obligations.StatusPortRead : Prop :=
  ∀ (a : Word) (s : State), s.fault = none → s.dma.haltReq = false → 0x2000 ≤ a.toNat → a.toNat < 0x4000 → a.toNat % 8 = 2 →
    ∃ t, exec (.ldaAbs a) s = .next t ∧ t.ppu.w = false ∧
      t.cpu.a.getLsbD 7 = (startTick .read s).ppu.nmiOccurred ∧ t.cpu.a.getLsbD 6 = (startTick .read s).ppu.spriteZeroHit ∧
      t.cpu.a.getLsbD 5 = (startTick .read s).ppu.spriteOverflow ∧ t.cpu.a.toNat % 32 = s.ppu.ioLatch.toNat % 32 ∧
      t.cpu = { s.cpu with a := t.cpu.a, p := s.cpu.p.zn t.cpu.a } ∧ Untouched s t ∧
      let p := (startTick .read s).ppu
      (busRead a (startTick .read s)).2.ppu = { p with
        nmiOccurred := false, w := false, ioLatch := t.cpu.a, suppressVbl := p.suppressVbl || decide (p.scanline = 241 ∧
          (p.dot = 1 ∨ (p.dot = 0 ∧ s.cfg.muteWindow = .secondHalf ∧ s.cfg.ppuOffset.val ≠ 1))) } ∧
      (s.ClockInv → 1 ≤ s.clk.cyc → s.RasterInv →
        (t.ppu.nmiOccurred = true ↔
          p.scanline = 241 ∧ p.dot = 0 ∧ s.cfg.ppuOffset.val ≠ 1 ∧ s.cfg.muteWindow = .nextDot ∧ p.suppressVbl = false) ∧
        (p.scanline = 241 → p.dot = 1 → t.ppu.nmiOccurred = false ∧ t.ppu.suppressVbl = false) ∧
        (s.cfg.muteWindow = .secondHalf → p.scanline = 241 → p.dot = 0 → s.cfg.ppuOffset.val ≠ 1 →
          t.ppu.nmiOccurred = false ∧ t.ppu.suppressVbl = false))

/-! ### The audio processor, DMA and controller ports -/

/-- A store to `$4014` requests a sprite transfer from its page; to `$4016` sets the strobe; to `$4017` sets the inhibit bit at once, acknowledges the frame interrupt if it is set, and delays the mode write by three or four cycles; to `$4015` enables the channels, and restarts a sample channel that has no bytes left, asking for a byte if its buffer is empty (R102, R103, R371, R462, R464, R468).
A store to `$4000` to `$4013` writes the fields of its channel's register and nothing else (R455 to R461); a load from `$4015` answers the status and acknowledges the frame interrupt (R463).
Bit 5 of that status is the latch's under two of the three open-bus values; under the third it is free (log entry 14). -/
def Obligations.ApuAndDmaPortStores : Prop :=
  ∀ s : State, s.fault = none →
    (∃ t, exec (.staAbs 0x4014) s = .next t ∧ t.dma.spriteActive = true ∧ t.dma.spritePage = s.cpu.a ∧ t.dma.haltReq = true ∧ t.mem = s.mem ∧ t.cpu = s.cpu) ∧
    (∃ t, exec (.staAbs 0x4016) s = .next t ∧ t.pads.strobe = s.cpu.a.getLsbD 0 ∧ t.mem = s.mem ∧ t.cpu = s.cpu ∧
      (s.cpu.a.getLsbD 0 = true → t.pads.shift0 = s.pads.buttons0 ∧ t.pads.shift1 = s.pads.buttons1)) ∧
    (∃ t, exec (.staAbs 0x4017) s = .next t ∧ t.apu.seq.irqInhibit = s.cpu.a.getLsbD 6 ∧ t.apu.seq.pendingValue = s.cpu.a ∧
      t.apu.seq.pendingDelay = (if s.clk.cyc % 2 = 0 then 4 else 3) ∧ (s.cpu.a.getLsbD 6 = true → t.apu.seq.irqFlag = false) ∧ t.mem = s.mem ∧ t.cpu = s.cpu) ∧
    (∃ t, exec (.staAbs 0x4015) s = .next t ∧ t.mem = s.mem ∧ t.cpu = s.cpu ∧ t.apu.dmc.irqFlag = false ∧
      t.apu.sq1.len.enabled = s.cpu.a.getLsbD 0 ∧ t.apu.sq2.len.enabled = s.cpu.a.getLsbD 1 ∧
      t.apu.tri.len.enabled = s.cpu.a.getLsbD 2 ∧ t.apu.noise.len.enabled = s.cpu.a.getLsbD 3 ∧
      (s.cpu.a.getLsbD 0 = false → t.apu.sq1.len.value = 0) ∧ (s.cpu.a.getLsbD 1 = false → t.apu.sq2.len.value = 0) ∧
      (s.cpu.a.getLsbD 2 = false → t.apu.tri.len.value = 0) ∧ (s.cpu.a.getLsbD 3 = false → t.apu.noise.len.value = 0) ∧
      (s.cpu.a.getLsbD 4 = false → t.apu.dmc.bytesRemaining = 0) ∧
      (s.cpu.a.getLsbD 4 = true → s.apu.dmc.bytesRemaining = 0 → s.apu.dmc.Restarted t.apu.dmc ∧
        t.dma = (if (startTick .write s).apu.dmc.bufferFull = false ∧ s.dma.dmcActive = false
          then { s.dma with dmcActive := true, dmcWait := 2, haltReq := true } else s.dma)) ∧
      (s.cpu.a.getLsbD 4 = true → s.apu.dmc.bytesRemaining ≠ 0 →
        t.apu.dmc.bytesRemaining = s.apu.dmc.bytesRemaining ∧ t.apu.dmc.curAddr = s.apu.dmc.curAddr)) ∧
    (∀ (k : Nat) (b : Apu), ((startTick .write s).apu.written s.cpu.a)[k]? = some b →
      ∃ t, exec (.staAbs (0x4000 + BitVec.ofNat 16 k)) s = .next t ∧ t.apu = b ∧ t.dma = (startTick .write s).dma ∧ t.mem = s.mem ∧ t.cpu = s.cpu) ∧
    (s.dma.haltReq = false →
      ∃ t, exec (.ldaAbs 0x4015) s = .next t ∧ Untouched s t ∧ t.cpu = { s.cpu with a := t.cpu.a, p := s.cpu.p.zn t.cpu.a } ∧
        let b := (startTick .read s).apu
        t.apu = { b with seq := { b.seq with irqFlag := false } } ∧
        t.cpu.a.getLsbD 7 = b.dmc.irqFlag ∧ t.cpu.a.getLsbD 6 = b.seq.irqFlag ∧
        (s.cfg.cpuOpenBus ≠ .anyValue → t.cpu.a.getLsbD 5 = s.dbus.getLsbD 5) ∧
        t.cpu.a.getLsbD 4 = decide (0 < b.dmc.bytesRemaining.toNat) ∧ t.cpu.a.getLsbD 3 = decide (0 < b.noise.len.value.toNat) ∧
        t.cpu.a.getLsbD 2 = decide (0 < b.tri.len.value.toNat) ∧ t.cpu.a.getLsbD 1 = decide (0 < b.sq2.len.value.toNat) ∧
        t.cpu.a.getLsbD 0 = decide (0 < b.sq1.len.value.toNat))

/-- After the strobe has been raised and lowered, eight reads of a controller port answer the eight buttons, bit 0 first, and every further read answers 1; while the strobe is high every read answers button A (R371). Both ports. -/
def Obligations.ControllerReads : Prop :=
  (∀ (p : Pads) (v w : Byte) (k : Nat), v.getLsbD 0 = true → w.getLsbD 0 = false →
    (Pads.after k ((p.writeStrobe v).writeStrobe w)).read0.1 = (if k < 8 then (if p.buttons0.getLsbD k = true then 1 else 0) else 1) ∧
    (Pads.after1 k ((p.writeStrobe v).writeStrobe w)).read1.1 = (if k < 8 then (if p.buttons1.getLsbD k = true then 1 else 0) else 1)) ∧
  (∀ (p : Pads) (v : Byte) (k : Nat), v.getLsbD 0 = true →
    (Pads.after k (p.writeStrobe v)).read0.1 = (if p.buttons0.getLsbD 0 = true then 1 else 0) ∧
    (Pads.after1 k (p.writeStrobe v)).read1.1 = if p.buttons1.getLsbD 0 = true then 1 else 0) ∧
  (∀ p : Pads, p.read0.2.shift1 = p.shift1 ∧ p.read1.2.shift0 = p.shift0)

/-! ### The cartridge -/

/-- A store of a bank number to UxROM selects the 16 KiB of PRG ROM at `$8000`, modulo the number of banks; `$C000` stays on the last bank (R527, R532). A store to CNROM or AxROM takes its register, and a store to NROM changes nothing (R530, R533, R534).
On every mapped cartridge each of the six mappers shows PRG, CHR and the nametables as its rule says (R77, R530 to R535); what AxROM and MMC1 show of a PRG ROM of one unit in a 32 KiB window is the model's choice (log entry 6). -/
def Obligations.UxromSelectsBank : Prop :=
  (∀ (a : Word) (s : State) (old : Byte), s.fault = none → s.CartInv → s.cart.mapper = .uxrom old → 0x8000 ≤ a.toNat →
    ∃ t, exec (.staAbs a) s = .next t ∧ t.cart.mapper = .uxrom s.cpu.a ∧ t.mem = s.mem ∧ t.fault = none ∧ t.cpu = s.cpu ∧
      (∀ k : Nat, k < 0x4000 →
        t.plainByte (BitVec.ofNat 16 (0x8000 + k)) = some (s.mem.prg.read (s.cpu.a.toNat % s.cart.prgUnits * 16384 + k)) ∧
        t.plainByte (BitVec.ofNat 16 (0xC000 + k)) = some (s.mem.prg.read ((s.cart.prgUnits - 1) * 16384 + k)))) ∧
  (∀ s : State, s.CartInv →
    (∀ a : Word, 0x8000 ≤ a.toNat → s.plainByte a = some (s.mem.prg.read (s.cart.prgShown a.toNat))) ∧
    (∀ a : Nat, a < 0x2000 → s.cart.ppuSpace.read s.mem a = some (s.mem.chr.read (s.cart.chrShown a))) ∧
    (∀ a : Nat, 0x2000 ≤ a → a < 0x4000 → s.cart.ppuSpace.read s.mem a = some (s.mem.vram.read (s.cart.ntShown a)))) ∧
  (∀ (a : Word) (s : State), s.fault = none → s.CartInv → 0x8000 ≤ a.toNat →
    ∃ t, exec (.staAbs a) s = .next t ∧ t.CartInv ∧ t.fault = none ∧ t.mem = s.mem ∧ t.cpu = s.cpu ∧
      (s.cart.mapper = .nrom → t.cart = s.cart) ∧ (∀ old, s.cart.mapper = .cnrom old → t.cart.mapper = .cnrom s.cpu.a) ∧
      (∀ old, s.cart.mapper = .axrom old → t.cart.mapper = .axrom s.cpu.a))

/-- MMC1 ignores the second of two consecutive write cycles, resets its shifter on bit 7, and loads a register with the low bits of five writes, the first written lowest (R531). A store reaches it from every address of `$8000` on, and raises no fault (R523, R527). -/
def Obligations.Mmc1SerialLoad : Prop :=
  (∀ (c : Cart) (r : Mmc1) (n : Nat) (a b : Word) (v w : Byte), c.mapper = .mmc1 r →
    ((c.romWrite n a v).1.romWrite (n + 1) b w).2 = true ∧
    ∃ q, (c.romWrite n a v).1.mapper = .mmc1 q ∧
      ((c.romWrite n a v).1.romWrite (n + 1) b w).1 = (c.romWrite n a v).1.withMapper (.mmc1 { q with lastWriteCyc := n + 1 })) ∧
  (∀ (r : Mmc1) (n : Nat) (a : Word) (v : Byte), v.getLsbD 7 = true →
    r.load n a v = { r with shiftReg := 0, shiftCount := 0, control := r.control ||| 0x0C, lastWriteCyc := n }) ∧
  (∀ (r : Mmc1) (n0 n1 n2 n3 n4 : Nat) (a0 a1 a2 a3 a : Word) (v0 v1 v2 v3 v4 : Byte), r.shiftCount = 0 →
    v0.getLsbD 7 = false → v1.getLsbD 7 = false → v2.getLsbD 7 = false → v3.getLsbD 7 = false → v4.getLsbD 7 = false →
    let q := ((((r.load n0 a0 v0).load n1 a1 v1).load n2 a2 v2).load n3 a3 v3).load n4 a v4
    let loaded : BitVec 5 := BitVec.ofNat 5 ((v0.getLsbD 0).toNat + 2 * (v1.getLsbD 0).toNat + 4 * (v2.getLsbD 0).toNat
      + 8 * (v3.getLsbD 0).toNat + 16 * (v4.getLsbD 0).toNat)
    q.shiftCount = 0 ∧ q.shiftReg = 0 ∧
    q.control = (if a.toNat / 8192 % 4 = 0 then loaded else r.control) ∧ q.chr0 = (if a.toNat / 8192 % 4 = 1 then loaded else r.chr0) ∧
    q.chr1 = (if a.toNat / 8192 % 4 = 2 then loaded else r.chr1) ∧ q.prg = (if a.toNat / 8192 % 4 = 3 then loaded else r.prg)) ∧
  (∀ (a : Word) (s : State) (r : Mmc1), s.fault = none → s.CartInv → s.cart.mapper = .mmc1 r → 0x8000 ≤ a.toNat →
    ∃ t, exec (.staAbs a) s = .next t ∧ t.CartInv ∧ t.fault = none ∧ t.mem = s.mem ∧ t.cpu = s.cpu ∧
      t.cart.mapper = .mmc1 (if s.clk.cyc = r.lastWriteCyc then { r with lastWriteCyc := s.clk.cyc + 1 } else r.load (s.clk.cyc + 1) a s.cpu.a))

/-- The scanline counter of MMC3: clocked by a rise of PPU address bit 12 that follows its fall by ten dots or more, reloaded at zero or on request, and raising its flag at zero if enabled (R541, R545). The registers a store writes, by its address and its parity (R535). -/
def Obligations.Mmc3ScanlineCounter : Prop :=
  (∀ (r : Mmc3) (now : Nat) (a : BitVec 14),
    let q := r.watch now a
    let clocked := r.a12 = false ∧ a.getLsbD 12 = true ∧ r.a12LowSince + 10 ≤ now
    q.a12 = a.getLsbD 12 ∧ q.a12LowSince = (if r.a12 = true ∧ a.getLsbD 12 = false then now else r.a12LowSince) ∧
    (¬ clocked → q.irqCounter = r.irqCounter ∧ q.irqReload = r.irqReload ∧ q.irqFlag = r.irqFlag) ∧
    (clocked → r.irqCounter = 0 ∨ r.irqReload = true → q.irqCounter = r.irqLatch ∧ q.irqReload = false) ∧
    (clocked → r.irqCounter ≠ 0 → r.irqReload = false → q.irqCounter = r.irqCounter - 1 ∧ q.irqReload = false) ∧
    (clocked → (q.irqFlag = true ↔ r.irqFlag = true ∨ (q.irqCounter = 0 ∧ r.irqEnabled = true))) ∧
    q.irqLatch = r.irqLatch ∧ q.irqEnabled = r.irqEnabled ∧ q.regs = r.regs ∧ q.bankSelect = r.bankSelect ∧ q.mirror = r.mirror) ∧
  (∀ (r : Mmc3) (a : Word) (v : Byte),
    (0x8000 ≤ a.toNat → a.toNat < 0xA000 → r.load a v =
      if a.toNat % 2 = 0 then { r with bankSelect := v } else { r with regs := r.regs.set (r.bankSelect.toNat % 8) v }) ∧
    (0xA000 ≤ a.toNat → a.toNat < 0xC000 → r.load a v =
      if a.toNat % 2 = 0 then { r with mirror := v.getLsbD 0 } else { r with ramProtect := v }) ∧
    (0xC000 ≤ a.toNat → a.toNat < 0xE000 → r.load a v =
      if a.toNat % 2 = 0 then { r with irqLatch := v } else { r with irqCounter := 0, irqReload := true }) ∧
    (0xE000 ≤ a.toNat → r.load a v =
      if a.toNat % 2 = 0 then { r with irqEnabled := false, irqFlag := false } else { r with irqEnabled := true })) ∧
  (∀ (a : Word) (s : State) (r : Mmc3), s.fault = none → s.CartInv → s.cart.mapper = .mmc3 r → 0x8000 ≤ a.toNat →
    ∃ t q, exec (.staAbs a) s = .next t ∧ t.CartInv ∧ t.fault = none ∧ t.mem = s.mem ∧ t.cpu = s.cpu ∧
      t.cart.mapper = .mmc3 q ∧ (Mapper.mmc3 q).banks = (Mapper.mmc3 (r.load a s.cpu.a)).banks)
end

