-- ==== Sys2Proof/Laws/Memory.lean ====
section
/-! SUPPORT. Sparse memories: a read after a write, and that every operation keeps the canonical form. -/

namespace Sys2Proof.Machine

variable {α : Type} [DecidableEq α] {fill : α}

/-- The cells of a memory in canonical form from `low` on read as `fill` below `low`. -/
theorem cellsRead_below {m : List (Nat × α)} {low a : Nat} (h : cellsWf fill low m = true) (ha : a < low) : cellsRead fill m a = fill := by
  cases m with
  | nil => rfl
  | cons c rest =>
    obtain ⟨k, v⟩ := c
    simp only [cellsWf, Bool.and_eq_true, decide_eq_true_eq] at h
    simp only [cellsRead]
    rw [if_neg (by omega), if_pos (by omega)]

/-- A smaller lower bound is a weaker demand. -/
theorem cellsWf_mono {m : List (Nat × α)} {low low' : Nat} (h : cellsWf fill low m = true) (hl : low' ≤ low) : cellsWf fill low' m = true := by
  cases m with
  | nil => rfl
  | cons c rest =>
    obtain ⟨k, v⟩ := c
    simp only [cellsWf, Bool.and_eq_true, decide_eq_true_eq] at h ⊢
    exact ⟨⟨by omega, h.1.2⟩, h.2⟩

/-- A write keeps the canonical form. -/
theorem cellsWf_write {m : List (Nat × α)} {low a : Nat} (v : α) (h : cellsWf fill low m = true) (ha : low ≤ a) :
    cellsWf fill low (cellsWrite fill m a v) = true := by
  induction m generalizing low with
  | nil =>
    simp only [cellsWrite]
    split
    · rfl
    · simp_all [cellsWf]
  | cons c rest ih =>
    obtain ⟨k, w⟩ := c
    simp only [cellsWf, Bool.and_eq_true, decide_eq_true_eq] at h
    simp only [cellsWrite]
    split
    · split
      · simp only [cellsWf, Bool.and_eq_true, decide_eq_true_eq]; exact h
      · simp only [cellsWf, Bool.and_eq_true, decide_eq_true_eq]
        exact ⟨⟨ha, ‹_›⟩, ⟨by omega, h.1.2⟩, h.2⟩
    · split
      · split
        · exact cellsWf_mono h.2 (by omega)
        · simp only [cellsWf, Bool.and_eq_true, decide_eq_true_eq]
          exact ⟨⟨h.1.1, ‹_›⟩, h.2⟩
      · simp only [cellsWf, Bool.and_eq_true, decide_eq_true_eq]
        exact ⟨h.1, ih h.2 (by omega)⟩

/-- A read after a write to the same place gives the value written. -/
theorem cellsRead_write_same {m : List (Nat × α)} {low a : Nat} (v : α) (h : cellsWf fill low m = true) : cellsRead fill (cellsWrite fill m a v) a = v := by
  induction m generalizing low with
  | nil =>
    simp only [cellsWrite]
    split <;> simp_all [cellsRead]
  | cons c rest ih =>
    obtain ⟨k, w⟩ := c
    simp only [cellsWf, Bool.and_eq_true, decide_eq_true_eq] at h
    simp only [cellsWrite]
    split
    · split
      · simp only [cellsRead]; rw [if_neg (by omega), if_pos (by omega)]; simp_all
      · simp [cellsRead]
    · split
      · split
        · rw [cellsRead_below h.2 (by omega)]; simp_all
        · simp only [cellsRead]; rw [if_pos (by omega)]
      · simp only [cellsRead]; rw [if_neg (by omega), if_neg (by omega)]; exact ih h.2

/-- A write leaves every other place alone. -/
theorem cellsRead_write_other {m : List (Nat × α)} {low a b : Nat} (v : α) (h : cellsWf fill low m = true) (hb : b ≠ a) :
    cellsRead fill (cellsWrite fill m a v) b = cellsRead fill m b := by
  induction m generalizing low with
  | nil =>
    simp only [cellsWrite]
    split
    · rfl
    · simp only [cellsRead]; rw [if_neg hb]; simp
  | cons c rest ih =>
    obtain ⟨k, w⟩ := c
    simp only [cellsWf, Bool.and_eq_true, decide_eq_true_eq] at h
    simp only [cellsWrite]
    split
    · split
      · rfl
      · simp only [cellsRead]
        rw [if_neg hb]
        split
        · rw [if_neg (by omega), if_pos (by omega)]
        · rfl
    · split
      · split
        · simp only [cellsRead]
          rw [if_neg (by omega : ¬ b = k)]
          split
          · exact cellsRead_below h.2 (by omega)
          · rfl
        · simp only [cellsRead]
          rw [if_neg (by omega : ¬ b = k), if_neg (by omega : ¬ b = k)]
      · simp only [cellsRead]
        rw [ih h.2]

/-- A read after a write of memory. -/
theorem Memory.read_write {m : Memory} (h : m.wf = true) (a b : Nat) (v : Byte) : (m.write a v).read b = if b = a then v else m.read b := by
  split
  · subst_vars; exact cellsRead_write_same v h
  · exact cellsRead_write_other v h ‹_›

/-- A write of memory keeps the canonical form. -/
theorem Memory.wf_write {m : Memory} (h : m.wf = true) (a : Nat) (v : Byte) : (m.write a v).wf = true := cellsWf_write v h (by omega)

/-- A pixel written keeps the canonical form. -/
theorem Pixels.wf_write {m : Pixels} (h : Pixels.wf m = true) (a : Nat) (v : BitVec 9) : Pixels.wf (Pixels.write m a v) = true :=
  cellsWf_write v h (by omega)

/-- Bytes loaded keep the canonical form. -/
theorem Memory.wf_load {m : Memory} (h : m.wf = true) (a : Nat) (l : List Byte) : (m.load a l).wf = true := by
  induction l generalizing m a with
  | nil => exact h
  | cons b rest ih => exact ih (Memory.wf_write h a b) (a + 1)

/-- A memory made from an image is in canonical form. -/
theorem cellsWf_ofBytes (l : List Byte) (k low : Nat) (h : low ≤ k) : cellsWf Memory.fill low (Memory.ofBytes k l) = true := by
  induction l generalizing k low with
  | nil => rfl
  | cons b rest ih =>
    simp only [Memory.ofBytes]
    split
    · exact ih (k + 1) low (by omega)
    · simp only [cellsWf, Bool.and_eq_true, decide_eq_true_eq]
      exact ⟨⟨h, ‹_›⟩, ih (k + 1) (k + 1) (by omega)⟩

/-- Secondary OAM after its clear is in canonical form. -/
theorem clearedSecOam_wf : clearedSecOam.wf = true := by decide

/-- Reading back a buffer that was replaced. -/
theorem Buffers.get_set (m : Buffers) (b c : BufId) (v : Memory) : (m.set b v).get c = if c = b then v else m.get c := by
  cases b <;> cases c <;> rfl

/-- Every buffer of a canonical memory is canonical. -/
theorem Buffers.wf_get {m : Buffers} (h : m.wf = true) (b : BufId) : (m.get b).wf = true := by
  simp only [Buffers.wf, Bool.and_eq_true] at h
  cases b <;> simp [Buffers.get, h]

/-- Replacing a buffer by a canonical one keeps the canonical form. -/
theorem Buffers.wf_set {m : Buffers} (h : m.wf = true) (b : BufId) {v : Memory} (hv : v.wf = true) : (m.set b v).wf = true := by
  simp only [Buffers.wf, Bool.and_eq_true] at h
  cases b <;> simp [Buffers.set, Buffers.wf, h, hv]

/-- A byte stored keeps the canonical form. -/
theorem Buffers.wf_storeAt {m : Buffers} (h : m.wf = true) (p : Option Place) (v : Byte) : (m.storeAt p v).wf = true := by
  cases p with
  | none => exact h
  | some q => exact Buffers.wf_set h _ (Memory.wf_write (Buffers.wf_get h _) _ _)

/-- Reading any byte after a byte has been stored: the stored byte at its place, every other as before. -/
theorem Buffers.byte_storeAt {m : Buffers} (h : m.wf = true) (p : Option Place) (v : Byte) (b : BufId) (off : Nat) :
    (m.storeAt p v).byte b off = if p = some (b, off) then v else m.byte b off := by
  cases p with
  | none => simp [Buffers.storeAt]
  | some q =>
    obtain ⟨c, k⟩ := q
    simp only [Buffers.storeAt, Buffers.byte, Buffers.get_set]
    by_cases hb : b = c
    · subst hb
      rw [if_pos rfl, Memory.read_write (Buffers.wf_get h _)]
      by_cases hk : off = k
      · subst hk; simp
      · rw [if_neg hk, if_neg]; simp; omega
    · rw [if_neg hb, if_neg]; simp; intro h; exact absurd h.symm hb

/-! ### Banks after `map` and `unmap` (R61) -/

theorem Space.length_mapFrom (c : MapCall) (k : Nat) (sp : Space) : (Space.mapFrom c k sp).length = sp.length := by
  induction sp generalizing k with
  | nil => rfl
  | cons b rest ih => simp [Space.mapFrom, ih]

theorem Space.getD_mapFrom (c : MapCall) (k j : Nat) {sp : Space} (h : j < sp.length) :
    (Space.mapFrom c k sp).getD j none = c.entry (k + j) (sp.getD j none) := by
  induction sp generalizing k j with
  | nil => simp at h
  | cons b rest ih =>
    cases j with
    | zero => rfl
    | succ j =>
      have := ih (k + 1) j (by simpa using h)
      simp only [Space.mapFrom, List.getD_cons_succ, this]
      rw [show k + 1 + j = k + (j + 1) by omega]

theorem Space.getD_unmapFrom (t n k j : Nat) (sp : Space) :
    (sp.unmapFrom t n k).getD j none = if t ≤ 1024 * (k + j) ∧ 1024 * (k + j) < t + n then none else sp.getD j none := by
  induction sp generalizing k j with
  | nil => simp [Space.unmapFrom]
  | cons b rest ih =>
    cases j with
    | zero => rfl
    | succ j =>
      simp only [Space.unmapFrom, List.getD_cons_succ, ih]
      rw [show k + 1 + j = k + (j + 1) by omega]

/-- After `unmap(t, n)` the addresses of the range are unmapped and every other address is mapped as before. -/
theorem Space.bank_unmap {size t n : Nat} {sp sq : Space} (h : sp.unmap? size t n = some sq) (a : Nat) :
    sq.bank a = if t ≤ a ∧ a < t + n then none else sp.bank a := by
  unfold Space.unmap? unmapOk at h
  split at h
  · rename_i ok
    simp only [Bool.and_eq_true, decide_eq_true_eq] at ok
    cases h
    unfold Space.bank
    rw [Space.getD_unmapFrom]
    congr 1
    rw [eq_iff_iff]
    constructor <;> rintro ⟨_, _⟩ <;> constructor <;> omega
  · cases h

/-- The write of a memory space is the store at its place (R63). -/
theorem Space.write_eq (sp : Space) (m : Buffers) (a : Nat) (v : Byte) : sp.write m a v = m.storeAt (sp.place a) v := by
  simp only [Space.write, Space.place]
  cases sp.bank a with
  | none => rfl
  | some b => by_cases hw : b.writable = true <;> simp [hw, Buffers.storeAt]

end Sys2Proof.Machine
end

