-- ==== Sys2Proof/Laws/Picture.lean ====
section
/-! SUPPORT. What a dot and a register access of the picture processor leave alone, and the invariants a dot keeps. -/

namespace Sys2Proof.Machine

/-! ### The address-line watch -/

/-- The watch changes nothing `Remap` depends on. -/
@[simp] theorem Mapper.banks_watch (now : Nat) (a : BitVec 14) (m : Mapper) : (m.watch now a).banks = m.banks := by
  cases m with
  | mmc3 r =>
    simp only [Mapper.watch, Mapper.banks, Mmc3.watch, Mmc3.clockCounter]
    split <;> (try split) <;> (try split) <;> (try split) <;> rfl
  | _ => rfl

/-- The watch leaves the banking alone. -/
@[simp] theorem Cart.bankView_watch (now : Nat) (a : BitVec 14) (c : Cart) : (c.watch now a).bankView = c.bankView := by
  simp [Cart.bankView, Cart.watch, Cart.withMapper]

/-- A fetch leaves the banking alone. -/
@[simp] theorem Cart.bankView_ppuRead (mem : Buffers) (now : Nat) (a : BitVec 14) (c : Cart) : (c.ppuRead mem now a).2.bankView = c.bankView := by
  simp [Cart.ppuRead]

/-- The notification leaves the banking alone. -/
@[simp] theorem Ppu.bankView_notify (p : Ppu) (now : Nat) (c : Cart) : (p.notify now c).bankView = c.bankView := by
  unfold Ppu.notify
  split <;> simp

/-- The tables are part of the banking. -/
theorem Cart.cpuSpace_of_bankView {c d : Cart} (h : c.bankView = d.bankView) : c.cpuSpace = d.cpuSpace := by
  have := congrArg Cart.cpuSpace h; exact this

/-- The tables are part of the banking. -/
theorem Cart.ppuSpace_of_bankView {c d : Cart} (h : c.bankView = d.bankView) : c.ppuSpace = d.ppuSpace := by
  have := congrArg Cart.ppuSpace h; exact this

/-! ### Dots -/

/-- What no dot changes: the registers the CPU writes, the latches of the port, OAM and palette, and the banking. -/
structure DotFrame (p : Ppu) (c : Cart) (q : Ppu) (d : Cart) : Prop where
  ctrl : q.ctrl = p.ctrl
  mask : q.mask = p.mask
  t : q.t = p.t
  fineX : q.fineX = p.fineX
  w : q.w = p.w
  oam : q.oam = p.oam
  palette : q.palette = p.palette
  readBuffer : q.readBuffer = p.readBuffer
  ioLatch : q.ioLatch = p.ioLatch
  banks : d.bankView = c.bankView

theorem DotFrame.refl (p : Ppu) (c : Cart) : DotFrame p c p c := ⟨rfl, rfl, rfl, rfl, rfl, rfl, rfl, rfl, rfl, rfl⟩

theorem DotFrame.trans {p q r : Ppu} {c d e : Cart} (h : DotFrame p c q d) (k : DotFrame q d r e) : DotFrame p c r e :=
  ⟨k.ctrl.trans h.ctrl, k.mask.trans h.mask, k.t.trans h.t, k.fineX.trans h.fineX, k.w.trans h.w, k.oam.trans h.oam,
   k.palette.trans h.palette, k.readBuffer.trans h.readBuffer, k.ioLatch.trans h.ioLatch, k.banks.trans h.banks⟩

/-- The steps of a dot that touch the processor alone. -/
theorem Ppu.small_frames (s d : Nat) (p : Ppu) (c : Cart) :
    DotFrame p c p.shiftBg c ∧ DotFrame p c (p.scrollDot d) c ∧ DotFrame p c (p.clearDot d) c ∧ DotFrame p c (p.pixelDot s d) c
    ∧ DotFrame p c (p.selectDot s d) c ∧ DotFrame p c (p.backdropDot s d) c ∧ DotFrame p c (p.flagsDot d) c
    ∧ DotFrame p c (p.horizontalDot d) c ∧ DotFrame p c (p.verticalDot d) c ∧ DotFrame p c (p.postRenderDot d) c
    ∧ DotFrame p c (p.vblankDot d) c ∧ DotFrame p c (p.advance s d) c := by
  refine ⟨?_, ?_, ?_, ?_, ?_, ?_, ?_, ?_, ?_, ?_, ?_, ?_⟩
  · exact ⟨rfl, rfl, rfl, rfl, rfl, rfl, rfl, rfl, rfl, rfl⟩
  · unfold Ppu.scrollDot; split <;> exact ⟨rfl, rfl, rfl, rfl, rfl, rfl, rfl, rfl, rfl, rfl⟩
  · unfold Ppu.clearDot; split <;> exact ⟨rfl, rfl, rfl, rfl, rfl, rfl, rfl, rfl, rfl, rfl⟩
  · unfold Ppu.pixelDot; split <;> exact ⟨rfl, rfl, rfl, rfl, rfl, rfl, rfl, rfl, rfl, rfl⟩
  · unfold Ppu.selectDot; split <;> exact ⟨rfl, rfl, rfl, rfl, rfl, rfl, rfl, rfl, rfl, rfl⟩
  · unfold Ppu.backdropDot; split <;> exact ⟨rfl, rfl, rfl, rfl, rfl, rfl, rfl, rfl, rfl, rfl⟩
  · unfold Ppu.flagsDot; split <;> exact ⟨rfl, rfl, rfl, rfl, rfl, rfl, rfl, rfl, rfl, rfl⟩
  · unfold Ppu.horizontalDot; split <;> exact ⟨rfl, rfl, rfl, rfl, rfl, rfl, rfl, rfl, rfl, rfl⟩
  · unfold Ppu.verticalDot; split <;> exact ⟨rfl, rfl, rfl, rfl, rfl, rfl, rfl, rfl, rfl, rfl⟩
  · unfold Ppu.postRenderDot; split <;> exact ⟨rfl, rfl, rfl, rfl, rfl, rfl, rfl, rfl, rfl, rfl⟩
  · unfold Ppu.vblankDot; split <;> exact ⟨rfl, rfl, rfl, rfl, rfl, rfl, rfl, rfl, rfl, rfl⟩
  · unfold Ppu.advance
    split
    · exact ⟨rfl, rfl, rfl, rfl, rfl, rfl, rfl, rfl, rfl, rfl⟩
    · split <;> exact ⟨rfl, rfl, rfl, rfl, rfl, rfl, rfl, rfl, rfl, rfl⟩

theorem Ppu.fetchBg_frame (mem : Buffers) (now d : Nat) (p : Ppu) (c : Cart) :
    DotFrame p c (p.fetchBg mem now d c).1 (p.fetchBg mem now d c).2 := by
  unfold Ppu.fetchBg
  split <;> exact ⟨rfl, rfl, rfl, rfl, rfl, rfl, rfl, rfl, rfl, by simp⟩

theorem Ppu.backgroundDot_frame (mem : Buffers) (now d : Nat) (p : Ppu) (c : Cart) :
    DotFrame p c (p.backgroundDot mem now d c).1 (p.backgroundDot mem now d c).2 := by
  unfold Ppu.backgroundDot
  split
  · exact ((p.small_frames 0 d c).1.trans (p.shiftBg.fetchBg_frame mem now d c)).trans (Ppu.small_frames 0 d _ _).2.1
  · exact .refl p c

theorem Ppu.loadUnits_banks (mem : Buffers) (now s : Nat) (p : Ppu) (l : List SpriteUnit) :
    ∀ (u : Nat) (c : Cart), (p.loadUnits mem now s u l c).2.bankView = c.bankView := by
  induction l with
  | nil => intro u c; rfl
  | cons old rest ih =>
    intro u c
    simp only [Ppu.loadUnits, ih]
    split <;> simp [Ppu.loadUnit, Ppu.idleUnit]

theorem Ppu.loadDot_frame (mem : Buffers) (now s d : Nat) (p : Ppu) (c : Cart) :
    DotFrame p c (p.loadDot mem now s d c).1 (p.loadDot mem now s d c).2 := by
  unfold Ppu.loadDot
  split
  · exact ⟨rfl, rfl, rfl, rfl, rfl, rfl, rfl, rfl, rfl, p.loadUnits_banks mem now s p.sprites 0 c⟩
  · exact .refl p c

theorem Ppu.visibleDot_frame (mem : Buffers) (now s d : Nat) (p : Ppu) (c : Cart) :
    DotFrame p c (p.visibleDot mem now s d c).1 (p.visibleDot mem now s d c).2 := by
  unfold Ppu.visibleDot
  split
  · refine .trans ?_ (Ppu.backgroundDot_frame mem now d _ _)
    refine .trans ?_ (Ppu.loadDot_frame mem now s d _ c)
    exact ((p.small_frames s d c).2.2.1.trans (Ppu.small_frames s d _ c).2.2.2.1).trans (Ppu.small_frames s d _ c).2.2.2.2.1
  · exact (p.small_frames s d c).2.2.2.2.2.1

theorem Ppu.preRenderDot_frame (mem : Buffers) (now d : Nat) (p : Ppu) (c : Cart) :
    DotFrame p c (p.preRenderDot mem now d c).1 (p.preRenderDot mem now d c).2 := by
  unfold Ppu.preRenderDot
  split
  · refine .trans ?_ (Ppu.loadDot_frame mem now 261 d _ _)
    refine .trans ?_ (Ppu.small_frames 261 d _ _).2.2.2.2.2.2.2.2.1
    refine .trans ?_ (Ppu.small_frames 261 d _ _).2.2.2.2.2.2.2.1
    exact (p.small_frames 261 d c).2.2.2.2.2.2.1.trans (Ppu.backgroundDot_frame mem now d _ c)
  · exact (p.small_frames 261 d c).2.2.2.2.2.2.1

theorem Ppu.dotActions_frame (mem : Buffers) (now : Nat) (p : Ppu) (c : Cart) :
    DotFrame p c (p.dotActions mem now c).1 (p.dotActions mem now c).2 := by
  unfold Ppu.dotActions
  repeat' split
  · exact p.visibleDot_frame mem now p.scanline p.dot c
  · exact (p.small_frames 0 p.dot c).2.2.2.2.2.2.2.2.2.1
  · exact (p.small_frames 0 p.dot c).2.2.2.2.2.2.2.2.2.2.1
  · exact p.preRenderDot_frame mem now p.dot c
  · exact .refl p c

/-- A dot leaves the frame alone. -/
theorem Ppu.dotStep_frame (mem : Buffers) (now : Nat) (p : Ppu) (c : Cart) :
    DotFrame p c (p.dotStep mem now c).1 (p.dotStep mem now c).2 :=
  (p.dotActions_frame mem now c).trans (Ppu.small_frames _ _ _ _).2.2.2.2.2.2.2.2.2.2.2

/-! ### The raster -/

/-- From a valid point the raster goes to a valid point, whatever the dot did. -/
theorem Ppu.advance_valid {s d : Nat} (hs : s < 262) (hd : d < 341) (p : Ppu) (hp : p.scanline = s) : (p.advance s d).rasterValid := by
  unfold Ppu.advance Ppu.rasterValid
  split
  · exact ⟨by simp, by simp⟩
  · split
    · exact ⟨Nat.mod_lt _ (by decide), by simp⟩
    · exact ⟨hp ▸ hs, by simp; omega⟩

@[simp] theorem Ppu.scrollDot_scanline (d : Nat) (p : Ppu) : (p.scrollDot d).scanline = p.scanline := by unfold Ppu.scrollDot; split <;> rfl
@[simp] theorem Ppu.clearDot_scanline (d : Nat) (p : Ppu) : (p.clearDot d).scanline = p.scanline := by unfold Ppu.clearDot; split <;> rfl
@[simp] theorem Ppu.pixelDot_scanline (s d : Nat) (p : Ppu) : (p.pixelDot s d).scanline = p.scanline := by unfold Ppu.pixelDot; split <;> rfl
@[simp] theorem Ppu.selectDot_scanline (s d : Nat) (p : Ppu) : (p.selectDot s d).scanline = p.scanline := by unfold Ppu.selectDot; split <;> rfl
@[simp] theorem Ppu.backdropDot_scanline (s d : Nat) (p : Ppu) : (p.backdropDot s d).scanline = p.scanline := by unfold Ppu.backdropDot; split <;> rfl
@[simp] theorem Ppu.flagsDot_scanline (d : Nat) (p : Ppu) : (p.flagsDot d).scanline = p.scanline := by unfold Ppu.flagsDot; split <;> rfl
@[simp] theorem Ppu.horizontalDot_scanline (d : Nat) (p : Ppu) : (p.horizontalDot d).scanline = p.scanline := by unfold Ppu.horizontalDot; split <;> rfl
@[simp] theorem Ppu.verticalDot_scanline (d : Nat) (p : Ppu) : (p.verticalDot d).scanline = p.scanline := by unfold Ppu.verticalDot; split <;> rfl
@[simp] theorem Ppu.postRenderDot_scanline (d : Nat) (p : Ppu) : (p.postRenderDot d).scanline = p.scanline := by unfold Ppu.postRenderDot; split <;> rfl
@[simp] theorem Ppu.vblankDot_scanline (d : Nat) (p : Ppu) : (p.vblankDot d).scanline = p.scanline := by unfold Ppu.vblankDot; split <;> rfl

@[simp] theorem Ppu.backgroundDot_scanline (mem : Buffers) (now d : Nat) (p : Ppu) (c : Cart) : (p.backgroundDot mem now d c).1.scanline = p.scanline := by
  unfold Ppu.backgroundDot
  split
  · refine (Ppu.scrollDot_scanline d _).trans ?_
    unfold Ppu.fetchBg
    split <;> rfl
  · rfl

@[simp] theorem Ppu.loadDot_scanline (mem : Buffers) (now s d : Nat) (p : Ppu) (c : Cart) : (p.loadDot mem now s d c).1.scanline = p.scanline := by
  unfold Ppu.loadDot
  split <;> rfl

/-- The actions of a dot do not move the raster. -/
theorem Ppu.dotActions_scanline (mem : Buffers) (now : Nat) (p : Ppu) (c : Cart) : (p.dotActions mem now c).1.scanline = p.scanline := by
  unfold Ppu.dotActions Ppu.visibleDot Ppu.preRenderDot
  repeat' split
  all_goals simp

/-- A dot keeps the raster valid. -/
theorem Ppu.dotStep_valid (mem : Buffers) (now : Nat) {p : Ppu} (h : p.rasterValid) (c : Cart) : (p.dotStep mem now c).1.rasterValid :=
  Ppu.advance_valid h.1 h.2 _ (p.dotActions_scanline mem now c)

/-! ### Memories of the picture processor -/

/-- The two memories a dot writes are in canonical form. -/
def Ppu.DotWf (p : Ppu) : Prop := p.secOam.wf = true ∧ Pixels.wf p.pixels = true

theorem Ppu.memWf_iff (p : Ppu) : p.memWf = true ↔ (p.oam.wf = true ∧ p.palette.wf = true) ∧ p.DotWf := by
  simp only [Ppu.memWf, Ppu.DotWf, Bool.and_eq_true]
  tauto

theorem copySprite_wf (oam : Memory) (n count : Nat) {sec : Memory} (h : sec.wf = true) : (copySprite oam n count sec).wf = true :=
  Memory.wf_write (Memory.wf_write (Memory.wf_write (Memory.wf_write h _ _) _ _) _ _) _ _

theorem selectLoop_wf (oam : Memory) (s h fuel : Nat) (q : Selection) (hq : q.sec.wf = true) : (selectLoop oam s h fuel q).sec.wf = true := by
  induction fuel generalizing q with
  | zero => exact hq
  | succ fuel ih =>
    simp only [selectLoop]
    split
    · split
      · exact ih _ (copySprite_wf _ _ _ hq)
      · exact ih _ hq
    · exact hq

theorem selectLoop_count (oam : Memory) (s h fuel : Nat) (q : Selection) (hq : q.count ≤ 8) : (selectLoop oam s h fuel q).count ≤ 8 := by
  induction fuel generalizing q with
  | zero => exact hq
  | succ fuel ih =>
    simp only [selectLoop]
    split
    · split
      · exact ih _ (by simp; omega)
      · exact ih _ hq
    · exact hq

/-- What the small steps do to the memories and the sprite units: both invariants are kept. -/
def Ppu.Kept (p q : Ppu) : Prop :=
  (p.DotWf → q.DotWf) ∧ q.sprites.length = p.sprites.length ∧ (p.sprCount ≤ 8 → p.sprNextCount ≤ 8 → q.sprCount ≤ 8 ∧ q.sprNextCount ≤ 8)

theorem Ppu.Kept.refl (p : Ppu) : Ppu.Kept p p := ⟨id, rfl, fun a b => ⟨a, b⟩⟩

theorem Ppu.Kept.trans {p q r : Ppu} (h : Ppu.Kept p q) (k : Ppu.Kept q r) : Ppu.Kept p r :=
  ⟨fun a => k.1 (h.1 a), k.2.1.trans h.2.1, fun a b => k.2.2 (h.2.2 a b).1 (h.2.2 a b).2⟩

/-- A step that writes neither memory nor the sprite units keeps them. -/
theorem Ppu.Kept.of_eq {p q : Ppu} (h1 : q.secOam = p.secOam) (h2 : q.pixels = p.pixels) (h3 : q.sprites = p.sprites)
    (h4 : q.sprCount = p.sprCount) (h5 : q.sprNextCount = p.sprNextCount) : Ppu.Kept p q := by
  refine ⟨fun h => ?_, by rw [h3], fun a b => ⟨h4 ▸ a, h5 ▸ b⟩⟩
  unfold Ppu.DotWf at *
  rw [h1, h2]
  exact h

theorem Ppu.scrollDot_kept (d : Nat) (p : Ppu) : p.Kept (p.scrollDot d) := by
  unfold Ppu.scrollDot; split <;> exact .of_eq rfl rfl rfl rfl rfl

theorem Ppu.clearDot_kept (d : Nat) (p : Ppu) : p.Kept (p.clearDot d) := by
  unfold Ppu.clearDot
  split
  · exact ⟨fun h => ⟨clearedSecOam_wf, h.2⟩, rfl, fun a b => ⟨a, b⟩⟩
  · exact .refl p

theorem Ppu.pixelDot_kept (s d : Nat) (p : Ppu) : p.Kept (p.pixelDot s d) := by
  unfold Ppu.pixelDot
  split
  · exact ⟨fun h => ⟨h.1, Pixels.wf_write h.2 _ _⟩, rfl, fun a b => ⟨a, b⟩⟩
  · exact .refl p

theorem Ppu.backdropDot_kept (s d : Nat) (p : Ppu) : p.Kept (p.backdropDot s d) := by
  unfold Ppu.backdropDot
  split
  · exact ⟨fun h => ⟨h.1, Pixels.wf_write h.2 _ _⟩, rfl, fun a b => ⟨a, b⟩⟩
  · exact .refl p

theorem Ppu.selectDot_kept (s d : Nat) (p : Ppu) : p.Kept (p.selectDot s d) := by
  unfold Ppu.selectDot
  split
  · exact ⟨fun h => ⟨selectLoop_wf _ _ _ _ _ h.1, h.2⟩, rfl, fun a _ => ⟨a, selectLoop_count _ _ _ _ _ (Nat.zero_le _)⟩⟩
  · exact .refl p

theorem Ppu.flagsDot_kept (d : Nat) (p : Ppu) : p.Kept (p.flagsDot d) := by
  unfold Ppu.flagsDot; split <;> exact .of_eq rfl rfl rfl rfl rfl

theorem Ppu.horizontalDot_kept (d : Nat) (p : Ppu) : p.Kept (p.horizontalDot d) := by
  unfold Ppu.horizontalDot
  split
  · exact ⟨fun h => h, rfl, fun a _ => ⟨a, Nat.zero_le _⟩⟩
  · exact .refl p

theorem Ppu.verticalDot_kept (d : Nat) (p : Ppu) : p.Kept (p.verticalDot d) := by
  unfold Ppu.verticalDot; split <;> exact .of_eq rfl rfl rfl rfl rfl

theorem Ppu.postRenderDot_kept (d : Nat) (p : Ppu) : p.Kept (p.postRenderDot d) := by
  unfold Ppu.postRenderDot; split <;> exact .of_eq rfl rfl rfl rfl rfl

theorem Ppu.vblankDot_kept (d : Nat) (p : Ppu) : p.Kept (p.vblankDot d) := by
  unfold Ppu.vblankDot; split <;> exact .of_eq rfl rfl rfl rfl rfl

theorem Ppu.advance_kept (s d : Nat) (p : Ppu) : p.Kept (p.advance s d) := by
  unfold Ppu.advance
  repeat' split
  all_goals exact .of_eq rfl rfl rfl rfl rfl

theorem Ppu.backgroundDot_kept (mem : Buffers) (now d : Nat) (p : Ppu) (c : Cart) : p.Kept (p.backgroundDot mem now d c).1 := by
  unfold Ppu.backgroundDot
  split
  · refine .trans ?_ (Ppu.scrollDot_kept d _)
    unfold Ppu.fetchBg
    split <;> exact .of_eq rfl rfl rfl rfl rfl
  · exact .refl p

theorem Ppu.loadUnits_length (mem : Buffers) (now s : Nat) (p : Ppu) (l : List SpriteUnit) :
    ∀ (u : Nat) (c : Cart), (p.loadUnits mem now s u l c).1.length = l.length := by
  induction l with
  | nil => intro u c; rfl
  | cons old rest ih => intro u c; simp [Ppu.loadUnits, ih]

theorem Ppu.loadDot_kept (mem : Buffers) (now s d : Nat) (p : Ppu) (c : Cart) : p.Kept (p.loadDot mem now s d c).1 := by
  unfold Ppu.loadDot
  split
  · exact ⟨fun h => h, p.loadUnits_length mem now s _ 0 c, fun _ b => ⟨b, b⟩⟩
  · exact .refl p

/-- A dot keeps the canonical form of the memories and the bounds of the sprite units. -/
theorem Ppu.dotStep_kept (mem : Buffers) (now : Nat) (p : Ppu) (c : Cart) : p.Kept (p.dotStep mem now c).1 := by
  refine .trans ?_ (Ppu.advance_kept _ _ _)
  unfold Ppu.dotActions Ppu.visibleDot Ppu.preRenderDot
  repeat' split
  · exact ((((p.clearDot_kept _).trans (Ppu.pixelDot_kept _ _ _)).trans (Ppu.selectDot_kept _ _ _)).trans
      (Ppu.loadDot_kept _ _ _ _ _ _)).trans (Ppu.backgroundDot_kept _ _ _ _ _)
  · exact p.backdropDot_kept _ _
  · exact p.postRenderDot_kept _
  · exact p.vblankDot_kept _
  · exact ((((p.flagsDot_kept _).trans (Ppu.backgroundDot_kept _ _ _ _ _)).trans (Ppu.horizontalDot_kept _ _)).trans
      (Ppu.verticalDot_kept _ _)).trans (Ppu.loadDot_kept _ _ _ _ _ _)
  · exact p.flagsDot_kept _
  · exact .refl p

/-- A dot keeps every memory of the picture processor in canonical form. -/
theorem Ppu.dotStep_memWf (mem : Buffers) (now : Nat) {p : Ppu} (h : p.memWf = true) (c : Cart) : (p.dotStep mem now c).1.memWf = true := by
  have f := p.dotStep_frame mem now c
  rw [Ppu.memWf_iff] at h ⊢
  rw [f.oam, f.palette]
  exact ⟨h.1, (p.dotStep_kept mem now c).1 h.2⟩

/-! ### Registers -/

/-- R403's window: the next dot is (241, 1). -/
theorem Ppu.vblankWithin_one (p : Ppu) : p.vblankWithin 1 = decide (p.scanline = 241 ∧ p.dot = 1) := by
  unfold Ppu.vblankWithin
  rw [← Bool.decide_and, ← Bool.decide_and, decide_eq_decide]
  omega

/-- The window of a half-step of two dots: (241, 1) is the next dot or the one after it. -/
theorem Ppu.vblankWithin_two (p : Ppu) : p.vblankWithin 2 = decide (p.scanline = 241 ∧ p.dot ≤ 1) := by
  unfold Ppu.vblankWithin
  rw [← Bool.decide_and, ← Bool.decide_and, decide_eq_decide]
  omega

/-- A register read leaves control, temporary address, fine scroll, OAM, palette and raster alone, and the banking. -/
theorem Ppu.regRead_frame (mem : Buffers) (now k r : Nat) (p : Ppu) (c : Cart) :
    (p.regRead mem now k r c).2.1.ctrl = p.ctrl ∧ (p.regRead mem now k r c).2.1.mask = p.mask ∧ (p.regRead mem now k r c).2.1.t = p.t
    ∧ (p.regRead mem now k r c).2.1.fineX = p.fineX ∧ (p.regRead mem now k r c).2.1.oam = p.oam
    ∧ (p.regRead mem now k r c).2.1.palette = p.palette ∧ (p.regRead mem now k r c).2.1.scanline = p.scanline
    ∧ (p.regRead mem now k r c).2.1.dot = p.dot ∧ (p.regRead mem now k r c).2.2.bankView = c.bankView := by
  unfold Ppu.regRead
  split
  · exact ⟨rfl, rfl, rfl, rfl, rfl, rfl, rfl, rfl, rfl⟩
  · exact ⟨rfl, rfl, rfl, rfl, rfl, rfl, rfl, rfl, rfl⟩
  · exact ⟨rfl, rfl, rfl, rfl, rfl, rfl, rfl, rfl, by simp [Ppu.readData]⟩
  · exact ⟨rfl, rfl, rfl, rfl, rfl, rfl, rfl, rfl, rfl⟩

/-- A register read keeps memories and sprite units. -/
theorem Ppu.regRead_kept (mem : Buffers) (now k r : Nat) (p : Ppu) (c : Cart) : p.Kept (p.regRead mem now k r c).2.1 := by
  unfold Ppu.regRead
  split <;> exact .of_eq rfl rfl rfl rfl rfl

/-- A register write leaves the raster and the banking alone. -/
theorem Ppu.regWrite_frame (mem : Buffers) (now r : Nat) (v : Byte) (p : Ppu) (c : Cart) :
    (p.regWrite mem now r v c).ppu.scanline = p.scanline ∧ (p.regWrite mem now r v c).ppu.dot = p.dot
    ∧ (p.regWrite mem now r v c).cart.bankView = c.bankView := by
  unfold Ppu.regWrite
  extract_lets q
  split
  · exact ⟨rfl, rfl, rfl⟩
  · exact ⟨rfl, rfl, rfl⟩
  · exact ⟨rfl, rfl, rfl⟩
  · exact ⟨rfl, rfl, rfl⟩
  · unfold Ppu.writeScroll
    dsimp only
    split <;> exact ⟨rfl, rfl, rfl⟩
  · unfold Ppu.writeAddr
    dsimp only
    split
    · exact ⟨rfl, rfl, by simp⟩
    · exact ⟨rfl, rfl, rfl⟩
  · unfold Ppu.writeData
    dsimp only
    split
    · exact ⟨rfl, rfl, by simp⟩
    · exact ⟨rfl, rfl, by simp⟩
  · exact ⟨rfl, rfl, rfl⟩

/-- Which register write changes which of the registers no dot changes (R401 to R409). -/
theorem Ppu.regWrite_fields (mem : Buffers) (now r : Nat) (v : Byte) (p : Ppu) (c : Cart) :
    (r ≠ 0 → (p.regWrite mem now r v c).ppu.ctrl = p.ctrl) ∧ (r ≠ 1 → (p.regWrite mem now r v c).ppu.mask = p.mask)
    ∧ (r ≠ 0 ∧ r ≠ 5 ∧ r ≠ 6 → (p.regWrite mem now r v c).ppu.t = p.t) ∧ (r ≠ 5 → (p.regWrite mem now r v c).ppu.fineX = p.fineX)
    ∧ (r ≠ 7 → (p.regWrite mem now r v c).ppu.palette = p.palette) := by
  unfold Ppu.regWrite Ppu.writeAddr Ppu.writeData Ppu.writeScroll
  dsimp only
  split
  · exact ⟨fun h => absurd rfl h, fun _ => rfl, fun h => absurd rfl h.1, fun _ => rfl, fun _ => rfl⟩
  · exact ⟨fun _ => rfl, fun h => absurd rfl h, fun _ => rfl, fun _ => rfl, fun _ => rfl⟩
  · exact ⟨fun _ => rfl, fun _ => rfl, fun _ => rfl, fun _ => rfl, fun _ => rfl⟩
  · exact ⟨fun _ => rfl, fun _ => rfl, fun _ => rfl, fun _ => rfl, fun _ => rfl⟩
  · refine ⟨fun _ => ?_, fun _ => ?_, fun h => absurd rfl h.2.1, fun h => absurd rfl h, fun _ => ?_⟩ <;> split <;> rfl
  · refine ⟨fun _ => ?_, fun _ => ?_, fun h => absurd rfl h.2.2, fun _ => ?_, fun _ => ?_⟩ <;> split <;> rfl
  · refine ⟨fun _ => ?_, fun _ => ?_, fun _ => ?_, fun _ => ?_, fun h => absurd rfl h⟩ <;> split <;> rfl
  · exact ⟨fun _ => rfl, fun _ => rfl, fun _ => rfl, fun _ => rfl, fun _ => rfl⟩

/-- A register write keeps memories and sprite units. -/
theorem Ppu.regWrite_kept (mem : Buffers) (now r : Nat) (v : Byte) (p : Ppu) (c : Cart) :
    p.Kept (p.regWrite mem now r v c).ppu ∧ (p.oam.wf = true ∧ p.palette.wf = true →
      (p.regWrite mem now r v c).ppu.oam.wf = true ∧ (p.regWrite mem now r v c).ppu.palette.wf = true) := by
  unfold Ppu.regWrite
  extract_lets q
  split
  · exact ⟨.of_eq rfl rfl rfl rfl rfl, id⟩
  · exact ⟨.of_eq rfl rfl rfl rfl rfl, id⟩
  · exact ⟨.of_eq rfl rfl rfl rfl rfl, id⟩
  · exact ⟨.of_eq rfl rfl rfl rfl rfl, fun h => ⟨Memory.wf_write h.1 _ _, h.2⟩⟩
  · unfold Ppu.writeScroll
    dsimp only
    split <;> exact ⟨.of_eq rfl rfl rfl rfl rfl, id⟩
  · unfold Ppu.writeAddr
    dsimp only
    split <;> exact ⟨.of_eq rfl rfl rfl rfl rfl, id⟩
  · unfold Ppu.writeData
    dsimp only
    split
    · exact ⟨.of_eq rfl rfl rfl rfl rfl, id⟩
    · exact ⟨.of_eq rfl rfl rfl rfl rfl, fun h => ⟨h.1, Memory.wf_write h.2 _ _⟩⟩
  · exact ⟨.of_eq rfl rfl rfl rfl rfl, id⟩

/-- What a register write stores to the backing buffers: one byte of the PPU space for the data port below the palette, nothing otherwise (R409). -/
theorem Ppu.regWrite_mem (mem : Buffers) (now r : Nat) (v : Byte) (p : Ppu) (c : Cart) :
    (p.regWrite mem now r v c).mem
      = mem.storeAt (if r = 7 ∧ (vramAddr p.v).toNat < 0x3F00 then c.ppuSpace.place (vramAddr p.v).toNat else none) v := by
  unfold Ppu.regWrite
  extract_lets q
  split
  · rfl
  · rfl
  · rfl
  · rfl
  · rfl
  · unfold Ppu.writeAddr
    dsimp only
    split <;> rfl
  · unfold Ppu.writeData
    dsimp only
    split
    · rw [Space.write_eq, if_pos ⟨rfl, ‹_›⟩]
    · rw [if_neg (fun h => absurd h.2 ‹_›)]; rfl
  · rw [if_neg (fun h => by simp_all)]; rfl

/-! ### Dots while rendering is disabled -/

/-- What dots leave alone while rendering is disabled: all but the raster position, the status flags, the framebuffer and the muted vertical blank (R382, R386, R394). -/
def Ppu.IdleFrame (p q : Ppu) : Prop :=
  q = { p with scanline := q.scanline, dot := q.dot, frame := q.frame, nmiOccurred := q.nmiOccurred, spriteZeroHit := q.spriteZeroHit,
               spriteOverflow := q.spriteOverflow, pixels := q.pixels, suppressVbl := q.suppressVbl }

theorem Ppu.IdleFrame.refl (p : Ppu) : p.IdleFrame p := rfl

theorem Ppu.IdleFrame.trans {p q r : Ppu} (h : p.IdleFrame q) (k : q.IdleFrame r) : p.IdleFrame r := by
  unfold Ppu.IdleFrame at *
  rw [k, h]

/-- A dot without rendering leaves the idle frame and the cartridge alone. -/
theorem Ppu.dotStep_idle (mem : Buffers) (now : Nat) {p : Ppu} (h : p.rendering = false) (c : Cart) :
    p.IdleFrame (p.dotStep mem now c).1 ∧ (p.dotStep mem now c).2 = c := by
  have hf : ∀ d, (p.flagsDot d).rendering = false := by
    intro d; unfold Ppu.flagsDot; split <;> exact h
  have ha : ∀ (s d : Nat) (q : Ppu), q.IdleFrame (q.advance s d) := by
    intro s d q; unfold Ppu.advance; repeat' split
    all_goals rfl
  have hd : p.IdleFrame (p.dotActions mem now c).1 ∧ (p.dotActions mem now c).2 = c := by
    unfold Ppu.dotActions Ppu.visibleDot Ppu.preRenderDot
    simp only [h, hf, Bool.false_eq_true, if_false]
    repeat' split
    · exact ⟨by unfold Ppu.backdropDot; split <;> rfl, rfl⟩
    · exact ⟨by unfold Ppu.postRenderDot; split <;> rfl, rfl⟩
    · exact ⟨by unfold Ppu.vblankDot; split <;> rfl, rfl⟩
    · exact ⟨by unfold Ppu.flagsDot; split <;> rfl, rfl⟩
    · exact ⟨rfl, rfl⟩
  exact ⟨hd.1.trans (ha _ _ _), hd.2⟩

theorem Ppu.IdleFrame.rendering {p q : Ppu} (h : p.IdleFrame q) : q.rendering = p.rendering := by
  rw [h]; rfl

end Sys2Proof.Machine
end

