-- ==== Sys2Proof/Laws/Sound.lean ====
section
/-! SUPPORT. What a cycle of the audio processor leaves alone. -/

namespace Sys2Proof.Machine

/-- What a cycle keeps: the settings, the range of the delayed write, and that an idle sample channel stays idle. -/
structure Apu.Kept (a b : Apu) : Prop where
  settings : b.settings = a.settings
  delay : a.seq.pendingDelay ≤ 4 → b.seq.pendingDelay ≤ 4
  remaining : a.dmc.bytesRemaining = 0 → b.dmc.bytesRemaining = 0

theorem Apu.Kept.refl (a : Apu) : Apu.Kept a a := ⟨rfl, id, id⟩

theorem Apu.Kept.trans {a b c : Apu} (h : Apu.Kept a b) (k : Apu.Kept b c) : Apu.Kept a c :=
  ⟨k.settings.trans h.settings, fun x => k.delay (h.delay x), fun x => k.remaining (h.remaining x)⟩

/-- The envelope's clock keeps its control fields. -/
@[simp] theorem Envelope.clock_fields (l : Bool) (e : Envelope) : (e.clock l).constant = e.constant ∧ (e.clock l).period = e.period := by
  unfold Envelope.clock
  repeat' split
  all_goals exact ⟨rfl, rfl⟩

/-- The length counter's clock keeps its halt flag and its enable. -/
@[simp] theorem LengthCounter.clock_fields (l : LengthCounter) : l.clock.halt = l.halt ∧ l.clock.enabled = l.enabled := by
  unfold LengthCounter.clock
  split <;> exact ⟨rfl, rfl⟩

/-- The sweep unit's clock keeps everything but the timer period, the divider and the reload flag. -/
@[simp] theorem Square.sweepClock_fields (f : Bool) (q : Square) :
    (q.sweepClock f).duty = q.duty ∧ (q.sweepClock f).len = q.len ∧ (q.sweepClock f).env = q.env
    ∧ (q.sweepClock f).sweep.enabled = q.sweep.enabled ∧ (q.sweepClock f).sweep.negate = q.sweep.negate
    ∧ (q.sweepClock f).sweep.period = q.sweep.period ∧ (q.sweepClock f).sweep.shift = q.sweep.shift := by
  unfold Square.sweepClock
  dsimp only
  refine ⟨rfl, rfl, rfl, ?_, ?_, ?_, ?_⟩ <;> split <;> rfl

theorem Apu.quarter_kept (a : Apu) : a.Kept a.quarter :=
  ⟨by simp [Apu.settings, Apu.quarter, Triangle.linearClock], id, id⟩

theorem Apu.half_kept (a : Apu) : a.Kept a.half :=
  ⟨by simp [Apu.settings, Apu.half], id, id⟩

/-- Changing the sequencer's position and flag alone keeps everything. -/
theorem Apu.seq_kept {a : Apu} {f : FrameSeq} (h : f.irqInhibit = a.seq.irqInhibit) (hd : a.seq.pendingDelay ≤ 4 → f.pendingDelay ≤ 4) :
    a.Kept { a with seq := f } := ⟨by simp [Apu.settings, h], hd, id⟩

theorem Apu.applyFrameMode_kept (v : Byte) (a : Apu) : a.Kept (a.applyFrameMode v) := by
  have h : a.Kept { a with seq := { a.seq with mode := v.getLsbD 7, cycle := 0, step := 0 } } := Apu.seq_kept rfl id
  unfold Apu.applyFrameMode
  dsimp only
  split
  · exact (h.trans (Apu.quarter_kept _)).trans (Apu.half_kept _)
  · exact h

theorem Apu.pendingMode_kept (a : Apu) : a.Kept a.pendingMode := by
  unfold Apu.pendingMode
  split
  · exact .refl a
  · have h : a.Kept { a with seq := { a.seq with pendingDelay := a.seq.pendingDelay - 1 } } := Apu.seq_kept rfl (fun h => by dsimp only; omega)
    dsimp only
    split
    · exact h.trans (Apu.applyFrameMode_kept _ _)
    · exact h

theorem Apu.fourStep_kept (n : Nat) (a : Apu) : a.Kept (a.fourStep n) := by
  unfold Apu.fourStep
  repeat' split
  · exact (a.quarter_kept).trans (Apu.seq_kept rfl id)
  · exact ((a.quarter_kept).trans (Apu.half_kept _)).trans (Apu.seq_kept rfl id)
  · exact (a.quarter_kept).trans (Apu.seq_kept rfl id)
  · exact Apu.seq_kept rfl id
  · exact ((a.quarter_kept).trans (Apu.half_kept _)).trans (Apu.seq_kept rfl id)
  · exact Apu.seq_kept rfl id
  · exact .refl a

theorem Apu.fiveStep_kept (n : Nat) (a : Apu) : a.Kept (a.fiveStep n) := by
  unfold Apu.fiveStep
  repeat' split
  · exact (a.quarter_kept).trans (Apu.seq_kept rfl id)
  · exact ((a.quarter_kept).trans (Apu.half_kept _)).trans (Apu.seq_kept rfl id)
  · exact (a.quarter_kept).trans (Apu.seq_kept rfl id)
  · exact Apu.seq_kept rfl id
  · exact ((a.quarter_kept).trans (Apu.half_kept _)).trans (Apu.seq_kept rfl id)
  · exact Apu.seq_kept rfl id
  · exact .refl a

theorem Apu.sequencerStep_kept (a : Apu) : a.Kept a.sequencerStep := by
  unfold Apu.sequencerStep
  dsimp only
  have h : a.pendingMode.Kept { a.pendingMode with seq := { a.pendingMode.seq with cycle := a.pendingMode.seq.cycle + 1 } } :=
    Apu.seq_kept rfl id
  refine (a.pendingMode_kept.trans h).trans ?_
  split
  · exact Apu.fiveStep_kept _ _
  · exact Apu.fourStep_kept _ _

/-- The frame sequencer leaves the sample channel alone. -/
theorem Apu.sequencerStep_dmc (a : Apu) : a.sequencerStep.dmc = a.dmc := by
  have hm : ∀ (v : Byte) (b : Apu), (b.applyFrameMode v).dmc = b.dmc := by
    intro v b; unfold Apu.applyFrameMode; dsimp only; split <;> rfl
  have hp : a.pendingMode.dmc = a.dmc := by
    unfold Apu.pendingMode
    dsimp only
    repeat' split
    · rfl
    · exact hm _ _
    · rfl
  have h4 : ∀ (n : Nat) (b : Apu), (b.fourStep n).dmc = b.dmc := by
    intro n b; unfold Apu.fourStep; repeat' split
    all_goals rfl
  have h5 : ∀ (n : Nat) (b : Apu), (b.fiveStep n).dmc = b.dmc := by
    intro n b; unfold Apu.fiveStep; repeat' split
    all_goals rfl
  unfold Apu.sequencerStep
  dsimp only
  split
  · exact (h5 _ _).trans hp
  · exact (h4 _ _).trans hp

/-- One cycle of the APU takes the sample channel through its timer, and requests what the timer requests (R451, R467). -/
theorem Apu.apuStep_dmc (cfg : Config) (cyc : Nat) (a : Apu) :
    (a.apuStep cfg cyc).1.dmc = a.dmc.timerStep.1 ∧ (a.apuStep cfg cyc).2 = a.dmc.timerStep.2 :=
  ⟨congrArg (fun d => d.timerStep.1) a.sequencerStep_dmc, congrArg (fun d => d.timerStep.2) a.sequencerStep_dmc⟩

/-- The sample channel's timer keeps its registers and its count of bytes. -/
theorem Dmc.timerStep_fields (d : Dmc) :
    d.timerStep.1.irqEnabled = d.irqEnabled ∧ d.timerStep.1.loop = d.loop ∧ d.timerStep.1.rateIndex = d.rateIndex
    ∧ d.timerStep.1.sampleAddrReg = d.sampleAddrReg ∧ d.timerStep.1.sampleLenReg = d.sampleLenReg
    ∧ d.timerStep.1.bytesRemaining = d.bytesRemaining ∧ (d.bytesRemaining = 0 → d.timerStep.2 = false) := by
  unfold Dmc.timerStep Dmc.clockOutput
  dsimp only
  split
  · split
    · unfold Dmc.nextByte
      split
      · refine ⟨rfl, rfl, rfl, rfl, rfl, rfl, fun h => ?_⟩
        simp [h]
      · exact ⟨rfl, rfl, rfl, rfl, rfl, rfl, fun _ => rfl⟩
    · exact ⟨rfl, rfl, rfl, rfl, rfl, rfl, fun _ => rfl⟩
  · exact ⟨rfl, rfl, rfl, rfl, rfl, rfl, fun _ => rfl⟩

@[simp] theorem Square.timerStep_fields (q : Square) :
    q.timerStep.duty = q.duty ∧ q.timerStep.len = q.len ∧ q.timerStep.env = q.env ∧ q.timerStep.sweep = q.sweep := by
  unfold Square.timerStep
  split <;> exact ⟨rfl, rfl, rfl, rfl⟩

@[simp] theorem Triangle.timerStep_fields (t : Triangle) :
    t.timerStep.len = t.len ∧ t.timerStep.timerPeriod = t.timerPeriod ∧ t.timerStep.linearReloadValue = t.linearReloadValue := by
  unfold Triangle.timerStep
  split <;> exact ⟨rfl, rfl, rfl⟩

@[simp] theorem Noise.timerStep_fields (q : Noise) :
    q.timerStep.len = q.len ∧ q.timerStep.env = q.env ∧ q.timerStep.modeFlag = q.modeFlag ∧ q.timerStep.periodIndex = q.periodIndex := by
  unfold Noise.timerStep
  split <;> exact ⟨rfl, rfl, rfl, rfl⟩

/-- One cycle keeps the settings. -/
theorem Apu.apuStep_kept (cfg : Config) (cyc : Nat) (a : Apu) : a.Kept (a.apuStep cfg cyc).1 := by
  have h := a.sequencerStep_kept
  obtain ⟨h1, h2, h3, h4, h5, h6, h7⟩ := (a.sequencerStep.dmc).timerStep_fields
  refine h.trans ⟨?_, id, fun x => h6.trans x⟩
  unfold Apu.apuStep
  dsimp only
  split <;> simp [Apu.settings, h1, h2, h3, h4, h5]

/-- An idle sample channel requests nothing. -/
theorem Apu.apuStep_request {cfg : Config} {cyc : Nat} {a : Apu} (h : a.dmc.bytesRemaining = 0) : (a.apuStep cfg cyc).2 = false :=
  (a.sequencerStep.dmc).timerStep_fields.2.2.2.2.2.2 (a.sequencerStep_kept.remaining h)

/-- Reading `$4015` changes the frame interrupt flag alone. -/
theorem Apu.readStatus_kept (b : Byte) (a : Apu) : a.Kept (a.readStatus b).2 := ⟨rfl, id, id⟩

/-- A delivered byte keeps the settings. -/
theorem Dmc.deliver_fields (v : Byte) (d : Dmc) :
    (d.deliver v).irqEnabled = d.irqEnabled ∧ (d.deliver v).loop = d.loop ∧ (d.deliver v).rateIndex = d.rateIndex
    ∧ (d.deliver v).sampleAddrReg = d.sampleAddrReg ∧ (d.deliver v).sampleLenReg = d.sampleLenReg
    ∧ (d.bytesRemaining = 0 → (d.deliver v).bytesRemaining = 0) := by
  unfold Dmc.deliver
  split
  · exact ⟨rfl, rfl, rfl, rfl, rfl, id⟩
  · dsimp only
    refine ⟨?_, ?_, ?_, ?_, ?_, fun h => absurd h ‹_›⟩ <;> (repeat' split) <;> rfl

theorem Apu.deliver_kept (v : Byte) (a : Apu) : a.Kept { a with dmc := a.dmc.deliver v } := by
  obtain ⟨h1, h2, h3, h4, h5, h6⟩ := a.dmc.deliver_fields v
  exact ⟨by simp [Apu.settings, h1, h2, h3, h4, h5], id, h6⟩

/-- A register write keeps the range of the delayed mode write. -/
theorem Apu.regWrite_delay {a : Apu} (h : a.seq.pendingDelay ≤ 4) (cyc r : Nat) (v : Byte) : (a.regWrite cyc r v).1.seq.pendingDelay ≤ 4 := by
  unfold Apu.regWrite Apu.writeEnable
  repeat' split
  all_goals try exact h
  unfold FrameSeq.write
  dsimp only
  split <;> omega

end Sys2Proof.Machine
end

