-- ==== Sys2Proof/Laws/State.lean ====
section
/-! SUPPORT. One lemma per field for each update of the state by the operations that only touch the registers. -/

namespace Sys2Proof.Machine

@[simp] theorem State.setCpu_cpu (c : Cpu) (s : State) : (s.setCpu c).cpu = c := rfl
@[simp] theorem State.setCpu_clk (c : Cpu) (s : State) : (s.setCpu c).clk = s.clk := rfl
@[simp] theorem State.setCpu_int (c : Cpu) (s : State) : (s.setCpu c).int = s.int := rfl
@[simp] theorem State.setCpu_dbus (c : Cpu) (s : State) : (s.setCpu c).dbus = s.dbus := rfl
@[simp] theorem State.setCpu_dma (c : Cpu) (s : State) : (s.setCpu c).dma = s.dma := rfl
@[simp] theorem State.setCpu_fault (c : Cpu) (s : State) : (s.setCpu c).fault = s.fault := rfl
@[simp] theorem State.setCpu_pads (c : Cpu) (s : State) : (s.setCpu c).pads = s.pads := rfl
@[simp] theorem State.setCpu_ppu (c : Cpu) (s : State) : (s.setCpu c).ppu = s.ppu := rfl
@[simp] theorem State.setCpu_apu (c : Cpu) (s : State) : (s.setCpu c).apu = s.apu := rfl
@[simp] theorem State.setCpu_cart (c : Cpu) (s : State) : (s.setCpu c).cart = s.cart := rfl
@[simp] theorem State.setCpu_mem (c : Cpu) (s : State) : (s.setCpu c).mem = s.mem := rfl
@[simp] theorem State.setCpu_cfg (c : Cpu) (s : State) : (s.setCpu c).cfg = s.cfg := rfl
@[simp] theorem State.setCpu_draws (c : Cpu) (s : State) : (s.setCpu c).draws = s.draws := rfl

@[simp] theorem State.setPc_a (v : Word) (s : State) : (s.setPc v).cpu.a = s.cpu.a := rfl
@[simp] theorem State.setPc_x (v : Word) (s : State) : (s.setPc v).cpu.x = s.cpu.x := rfl
@[simp] theorem State.setPc_y (v : Word) (s : State) : (s.setPc v).cpu.y = s.cpu.y := rfl
@[simp] theorem State.setPc_sp (v : Word) (s : State) : (s.setPc v).cpu.sp = s.cpu.sp := rfl
@[simp] theorem State.setPc_pc (v : Word) (s : State) : (s.setPc v).cpu.pc = v := rfl
@[simp] theorem State.setPc_p (v : Word) (s : State) : (s.setPc v).cpu.p = s.cpu.p := rfl
@[simp] theorem State.setPc_clk (v : Word) (s : State) : (s.setPc v).clk = s.clk := rfl
@[simp] theorem State.setPc_int (v : Word) (s : State) : (s.setPc v).int = s.int := rfl
@[simp] theorem State.setPc_dbus (v : Word) (s : State) : (s.setPc v).dbus = s.dbus := rfl
@[simp] theorem State.setPc_dma (v : Word) (s : State) : (s.setPc v).dma = s.dma := rfl
@[simp] theorem State.setPc_fault (v : Word) (s : State) : (s.setPc v).fault = s.fault := rfl
@[simp] theorem State.setPc_pads (v : Word) (s : State) : (s.setPc v).pads = s.pads := rfl
@[simp] theorem State.setPc_ppu (v : Word) (s : State) : (s.setPc v).ppu = s.ppu := rfl
@[simp] theorem State.setPc_apu (v : Word) (s : State) : (s.setPc v).apu = s.apu := rfl
@[simp] theorem State.setPc_cart (v : Word) (s : State) : (s.setPc v).cart = s.cart := rfl
@[simp] theorem State.setPc_mem (v : Word) (s : State) : (s.setPc v).mem = s.mem := rfl
@[simp] theorem State.setPc_cfg (v : Word) (s : State) : (s.setPc v).cfg = s.cfg := rfl
@[simp] theorem State.setPc_draws (v : Word) (s : State) : (s.setPc v).draws = s.draws := rfl

@[simp] theorem State.setSp_a (v : Byte) (s : State) : (s.setSp v).cpu.a = s.cpu.a := rfl
@[simp] theorem State.setSp_x (v : Byte) (s : State) : (s.setSp v).cpu.x = s.cpu.x := rfl
@[simp] theorem State.setSp_y (v : Byte) (s : State) : (s.setSp v).cpu.y = s.cpu.y := rfl
@[simp] theorem State.setSp_sp (v : Byte) (s : State) : (s.setSp v).cpu.sp = v := rfl
@[simp] theorem State.setSp_pc (v : Byte) (s : State) : (s.setSp v).cpu.pc = s.cpu.pc := rfl
@[simp] theorem State.setSp_p (v : Byte) (s : State) : (s.setSp v).cpu.p = s.cpu.p := rfl
@[simp] theorem State.setSp_clk (v : Byte) (s : State) : (s.setSp v).clk = s.clk := rfl
@[simp] theorem State.setSp_int (v : Byte) (s : State) : (s.setSp v).int = s.int := rfl
@[simp] theorem State.setSp_dbus (v : Byte) (s : State) : (s.setSp v).dbus = s.dbus := rfl
@[simp] theorem State.setSp_dma (v : Byte) (s : State) : (s.setSp v).dma = s.dma := rfl
@[simp] theorem State.setSp_fault (v : Byte) (s : State) : (s.setSp v).fault = s.fault := rfl
@[simp] theorem State.setSp_pads (v : Byte) (s : State) : (s.setSp v).pads = s.pads := rfl
@[simp] theorem State.setSp_ppu (v : Byte) (s : State) : (s.setSp v).ppu = s.ppu := rfl
@[simp] theorem State.setSp_apu (v : Byte) (s : State) : (s.setSp v).apu = s.apu := rfl
@[simp] theorem State.setSp_cart (v : Byte) (s : State) : (s.setSp v).cart = s.cart := rfl
@[simp] theorem State.setSp_mem (v : Byte) (s : State) : (s.setSp v).mem = s.mem := rfl
@[simp] theorem State.setSp_cfg (v : Byte) (s : State) : (s.setSp v).cfg = s.cfg := rfl
@[simp] theorem State.setSp_draws (v : Byte) (s : State) : (s.setSp v).draws = s.draws := rfl

@[simp] theorem State.setP_a (v : Flags) (s : State) : (s.setP v).cpu.a = s.cpu.a := rfl
@[simp] theorem State.setP_x (v : Flags) (s : State) : (s.setP v).cpu.x = s.cpu.x := rfl
@[simp] theorem State.setP_y (v : Flags) (s : State) : (s.setP v).cpu.y = s.cpu.y := rfl
@[simp] theorem State.setP_sp (v : Flags) (s : State) : (s.setP v).cpu.sp = s.cpu.sp := rfl
@[simp] theorem State.setP_pc (v : Flags) (s : State) : (s.setP v).cpu.pc = s.cpu.pc := rfl
@[simp] theorem State.setP_p (v : Flags) (s : State) : (s.setP v).cpu.p = v := rfl
@[simp] theorem State.setP_clk (v : Flags) (s : State) : (s.setP v).clk = s.clk := rfl
@[simp] theorem State.setP_int (v : Flags) (s : State) : (s.setP v).int = s.int := rfl
@[simp] theorem State.setP_dbus (v : Flags) (s : State) : (s.setP v).dbus = s.dbus := rfl
@[simp] theorem State.setP_dma (v : Flags) (s : State) : (s.setP v).dma = s.dma := rfl
@[simp] theorem State.setP_fault (v : Flags) (s : State) : (s.setP v).fault = s.fault := rfl
@[simp] theorem State.setP_pads (v : Flags) (s : State) : (s.setP v).pads = s.pads := rfl
@[simp] theorem State.setP_ppu (v : Flags) (s : State) : (s.setP v).ppu = s.ppu := rfl
@[simp] theorem State.setP_apu (v : Flags) (s : State) : (s.setP v).apu = s.apu := rfl
@[simp] theorem State.setP_cart (v : Flags) (s : State) : (s.setP v).cart = s.cart := rfl
@[simp] theorem State.setP_mem (v : Flags) (s : State) : (s.setP v).mem = s.mem := rfl
@[simp] theorem State.setP_cfg (v : Flags) (s : State) : (s.setP v).cfg = s.cfg := rfl
@[simp] theorem State.setP_draws (v : Flags) (s : State) : (s.setP v).draws = s.draws := rfl

@[simp] theorem State.drawn_cpu (s : State) : s.drawn.cpu = s.cpu := rfl
@[simp] theorem State.drawn_clk (s : State) : s.drawn.clk = s.clk := rfl
@[simp] theorem State.drawn_int (s : State) : s.drawn.int = s.int := rfl
@[simp] theorem State.drawn_dbus (s : State) : s.drawn.dbus = s.dbus := rfl
@[simp] theorem State.drawn_dma (s : State) : s.drawn.dma = s.dma := rfl
@[simp] theorem State.drawn_fault (s : State) : s.drawn.fault = s.fault := rfl
@[simp] theorem State.drawn_pads (s : State) : s.drawn.pads = s.pads := rfl
@[simp] theorem State.drawn_ppu (s : State) : s.drawn.ppu = s.ppu := rfl
@[simp] theorem State.drawn_apu (s : State) : s.drawn.apu = s.apu := rfl
@[simp] theorem State.drawn_cart (s : State) : s.drawn.cart = s.cart := rfl
@[simp] theorem State.drawn_mem (s : State) : s.drawn.mem = s.mem := rfl
@[simp] theorem State.drawn_cfg (s : State) : s.drawn.cfg = s.cfg := rfl
@[simp] theorem State.drawn_draws (s : State) : s.drawn.draws = s.draws + 1 := rfl

@[simp] theorem sampleLines_cpu (s : State) : (sampleLines s).cpu = s.cpu := rfl
@[simp] theorem sampleLines_clk (s : State) : (sampleLines s).clk = s.clk := rfl
@[simp] theorem sampleLines_int (s : State) : (sampleLines s).int = s.int.sample s.nmiLine (s.irqLine && !s.cpu.p.i) := rfl
@[simp] theorem sampleLines_dbus (s : State) : (sampleLines s).dbus = s.dbus := rfl
@[simp] theorem sampleLines_dma (s : State) : (sampleLines s).dma = s.dma := rfl
@[simp] theorem sampleLines_fault (s : State) : (sampleLines s).fault = s.fault := rfl
@[simp] theorem sampleLines_pads (s : State) : (sampleLines s).pads = s.pads := rfl
@[simp] theorem sampleLines_ppu (s : State) : (sampleLines s).ppu = s.ppu := rfl
@[simp] theorem sampleLines_apu (s : State) : (sampleLines s).apu = s.apu := rfl
@[simp] theorem sampleLines_cart (s : State) : (sampleLines s).cart = s.cart := rfl
@[simp] theorem sampleLines_mem (s : State) : (sampleLines s).mem = s.mem := rfl
@[simp] theorem sampleLines_cfg (s : State) : (sampleLines s).cfg = s.cfg := rfl
@[simp] theorem sampleLines_draws (s : State) : (sampleLines s).draws = s.draws := rfl

@[simp] theorem dmaPrologue_cpu (s : State) : (dmaPrologue s).cpu = s.cpu := rfl
@[simp] theorem dmaPrologue_clk (s : State) : (dmaPrologue s).clk = s.clk := rfl
@[simp] theorem dmaPrologue_int (s : State) : (dmaPrologue s).int = s.int := rfl
@[simp] theorem dmaPrologue_dbus (s : State) : (dmaPrologue s).dbus = s.dbus := rfl
@[simp] theorem dmaPrologue_haltReq (s : State) : (dmaPrologue s).dma.haltReq = false := rfl
@[simp] theorem dmaPrologue_dmcWait (s : State) : (dmaPrologue s).dma.dmcWait = s.dma.dmcWait - 1 := rfl
@[simp] theorem dmaPrologue_spriteActive (s : State) : (dmaPrologue s).dma.spriteActive = s.dma.spriteActive := rfl
@[simp] theorem dmaPrologue_spritePage (s : State) : (dmaPrologue s).dma.spritePage = s.dma.spritePage := rfl
@[simp] theorem dmaPrologue_dmcActive (s : State) : (dmaPrologue s).dma.dmcActive = s.dma.dmcActive := rfl
@[simp] theorem dmaPrologue_fault (s : State) : (dmaPrologue s).fault = s.fault := rfl
@[simp] theorem dmaPrologue_pads (s : State) : (dmaPrologue s).pads = s.pads := rfl
@[simp] theorem dmaPrologue_ppu (s : State) : (dmaPrologue s).ppu = s.ppu := rfl
@[simp] theorem dmaPrologue_apu (s : State) : (dmaPrologue s).apu = s.apu := rfl
@[simp] theorem dmaPrologue_cart (s : State) : (dmaPrologue s).cart = s.cart := rfl
@[simp] theorem dmaPrologue_mem (s : State) : (dmaPrologue s).mem = s.mem := rfl
@[simp] theorem dmaPrologue_cfg (s : State) : (dmaPrologue s).cfg = s.cfg := rfl
@[simp] theorem dmaPrologue_draws (s : State) : (dmaPrologue s).draws = s.draws := rfl

/-- Replacing the registers twice is replacing them once. -/
@[simp] theorem State.setCpu_setCpu (c d : Cpu) (s : State) : (s.setCpu c).setCpu d = s.setCpu d := rfl

/-- Putting the registers back changes nothing. -/
@[simp] theorem State.setCpu_self (s : State) : s.setCpu s.cpu = s := rfl

end Sys2Proof.Machine
end

