-- ==== Sys2Proof/Laws/Bus.lean ====
section
/-! SUPPORT. What a bus cycle can do: relations that hold of its parts hold of it, and the frame of read and write cycles. -/

namespace Sys2Proof.Machine

/-! ### From the parts of a cycle to CPU accesses -/

/-- A relation of states that every whole bus cycle and every step of the DMA engine between cycles respects. -/
structure CycleSteps (R : State → State → Prop) : Prop where
  refl : ∀ s, R s s
  trans : ∀ {s t u}, R s t → R t u → R s u
  read : ∀ a s, R s (readCycle a s).2
  oam : ∀ v s, R s (writeCycle 0x2004 v s)
  prologue : ∀ s, R s (dmaPrologue s)
  dmc : ∀ v s, R s (dmcDone v s)
  sprite : ∀ n s, R s (spriteDone n s)

theorem CycleSteps.dmaLoop {R : State → State → Prop} (h : CycleSteps R) (a : Word) (fuel n : Nat) (latch : Byte) (s : State) :
    R s (dmaLoop a fuel n latch s) := by
  induction fuel generalizing n latch s with
  | zero => exact h.refl s
  | succ fuel ih =>
    have hr : ∀ x s, R s (dmaCycleRead x s).2 := fun x s => h.trans (h.prologue s) (h.read x _)
    simp only [Machine.dmaLoop]
    split
    · exact h.refl s
    · split
      · split
        · exact h.trans (h.trans (hr _ _) (h.dmc _ _)) (ih _ _ _)
        · split
          · exact h.trans (hr _ _) (ih _ _ _)
          · exact h.trans (hr _ _) (ih _ _ _)
      · split
        · exact h.trans (h.trans (h.trans (h.prologue s) (h.oam _ _)) (h.sprite _ _)) (ih _ _ _)
        · exact h.trans (hr _ _) (ih _ _ _)

theorem CycleSteps.runDma {R : State → State → Prop} (h : CycleSteps R) (a : Word) (s : State) : R s (runDma a s) :=
  h.trans (h.trans (h.prologue s) (h.read a _)) (h.dmaLoop a _ _ _ _)

/-- A relation respected by cycles is respected by a CPU read, DMA included. -/
theorem CycleSteps.memRead {R : State → State → Prop} (h : CycleSteps R) (a : Word) (s : State) : R s (memRead a s).2 := by
  unfold Machine.memRead
  split
  · exact h.refl s
  · split
    · exact h.trans (h.runDma a s) (h.read a _)
    · exact h.read a s

/-- The same of a dummy read. -/
theorem CycleSteps.dummyRead {R : State → State → Prop} (h : CycleSteps R) (a : Word) (s : State) : R s (dummyRead a s) := h.memRead a s

/-- A relation of states that every part of a bus cycle respects. -/
structure PartSteps (R : State → State → Prop) : Prop where
  refl : ∀ s, R s s
  trans : ∀ {s t u}, R s t → R t u → R s u
  cyc : ∀ s : State, R s { s with clk := { s.clk with cyc := s.clk.cyc + 1 } }
  advance : ∀ u s, R s (advance u s)
  apu : ∀ s, R s (apuCycle s)
  access : ∀ a s, R s (busRead a s).2
  sample : ∀ s, R s (sampleLines s)
  prologue : ∀ s, R s (dmaPrologue s)
  dmc : ∀ v s, R s (dmcDone v s)
  sprite : ∀ n s, R s (spriteDone n s)

theorem PartSteps.startTick {R : State → State → Prop} (h : PartSteps R) (k : Access) (s : State) : R s (startTick k s) :=
  h.trans (h.cyc s) (h.trans (h.advance _ _) (h.apu _))

theorem PartSteps.readCycle {R : State → State → Prop} (h : PartSteps R) (a : Word) (s : State) : R s (readCycle a s).2 :=
  h.trans (h.startTick .read s) (h.trans (h.access a _) (h.trans (h.sample _) (h.advance _ _)))

theorem PartSteps.writeCycle {R : State → State → Prop} (h : PartSteps R) (a : Word) (v : Byte)
    (hw : ∀ s, R s (busWrite a v s)) (s : State) : R s (writeCycle a v s) := by
  unfold Machine.writeCycle
  dsimp only
  split
  · exact h.trans (h.startTick .write s) (hw _)
  · exact h.trans (h.startTick .write s) (h.trans (hw _) (h.trans (h.sample _) (h.advance _ _)))

/-- A relation respected by the parts of a cycle and by OAM writes is respected by whole cycles. -/
theorem PartSteps.cycles {R : State → State → Prop} (h : PartSteps R) (hw : ∀ v s, R s (busWrite 0x2004 v s)) : CycleSteps R :=
  ⟨h.refl, h.trans, h.readCycle, fun v => h.writeCycle 0x2004 v (hw v), h.prologue, h.dmc, h.sprite⟩

theorem PartSteps.memWrite {R : State → State → Prop} (h : PartSteps R) (a : Word) (v : Byte)
    (hw : ∀ s, R s (busWrite a v s)) (s : State) : R s (memWrite a v s) := by
  unfold Machine.memWrite
  split
  · exact h.refl s
  · exact h.writeCycle a v hw s

/-! ### The dots of a half-step -/

theorem runDots_frame (mem : Buffers) (n : Nat) :
    ∀ (k : Nat) (p : Ppu) (c : Cart), DotFrame p c (runDots mem n k p c).1 (runDots mem n k p c).2 := by
  induction n with
  | zero => intro k p c; exact .refl p c
  | succ n ih => intro k p c; exact (p.dotStep_frame mem (k / 4) c).trans (ih _ _ _)

theorem runDots_valid (mem : Buffers) (n : Nat) :
    ∀ (k : Nat) (p : Ppu) (c : Cart), p.rasterValid → (runDots mem n k p c).1.rasterValid := by
  induction n with
  | zero => intro k p c h; exact h
  | succ n ih => intro k p c h; exact ih _ _ _ (Ppu.dotStep_valid mem (k / 4) h c)

theorem runDots_kept (mem : Buffers) (n : Nat) : ∀ (k : Nat) (p : Ppu) (c : Cart), p.Kept (runDots mem n k p c).1 := by
  induction n with
  | zero => intro k p c; exact .refl p
  | succ n ih => intro k p c; exact (p.dotStep_kept mem (k / 4) c).trans (ih _ _ _)

/-- Dots without rendering leave the idle frame and the cartridge alone. -/
theorem runDots_idle (mem : Buffers) (n : Nat) : ∀ (k : Nat) {p : Ppu} (c : Cart), p.rendering = false →
    p.IdleFrame (runDots mem n k p c).1 ∧ (runDots mem n k p c).2 = c := by
  induction n with
  | zero => intro k p c _; exact ⟨.refl p, rfl⟩
  | succ n ih =>
    intro k p c h
    obtain ⟨h1, h2⟩ := p.dotStep_idle mem (k / 4) h c
    obtain ⟨k1, k2⟩ := ih (k + 4) (p.dotStep mem (k / 4) c).2 (h1.rendering.trans h)
    exact ⟨h1.trans k1, k2.trans h2⟩

/-- A half-step without rendering. -/
theorem advance_idle (u : Nat) {s : State} (h : s.ppu.rendering = false) : s.ppu.IdleFrame (advance u s).ppu ∧ (advance u s).cart = s.cart :=
  runDots_idle _ _ _ _ h

/-! ### The frame of a read -/

/-- What a read cycle leaves alone: the CPU registers and all of `Untouched`. -/
structure ReadFrame (s t : State) : Prop extends Untouched s t where
  cpu : t.cpu = s.cpu

theorem Untouched.refl (s : State) : Untouched s s := ⟨rfl, rfl, rfl, rfl, rfl, rfl, rfl, rfl, rfl, rfl, rfl, rfl, rfl⟩

theorem Untouched.trans {s t u : State} (h : Untouched s t) (k : Untouched t u) : Untouched s u :=
  ⟨k.mem.trans h.mem, k.cfg.trans h.cfg, k.fault.trans h.fault, k.strobe.trans h.strobe, k.buttons0.trans h.buttons0,
   k.buttons1.trans h.buttons1, k.banks.trans h.banks, k.ctrl.trans h.ctrl, k.mask.trans h.mask, k.tempAddr.trans h.tempAddr,
   k.fineX.trans h.fineX, k.palette.trans h.palette, k.settings.trans h.settings⟩

theorem ReadFrame.refl (s : State) : ReadFrame s s := ⟨.refl s, rfl⟩

theorem ReadFrame.trans {s t u : State} (h : ReadFrame s t) (k : ReadFrame t u) : ReadFrame s u :=
  ⟨h.toUntouched.trans k.toUntouched, k.cpu.trans h.cpu⟩

/-- An unanswered read changes at most the draw counter. -/
theorem openBus_state (a : Word) (s : State) : (openBus a s).2 = s ∨ (openBus a s).2 = s.drawn := by
  unfold openBus
  split
  · exact .inl rfl
  · exact .inl rfl
  · exact .inr rfl

theorem floatingBits_state (a : Word) (s : State) : (floatingBits a s).2 = s ∨ (floatingBits a s).2 = s.drawn := by
  unfold floatingBits
  split
  · exact .inl rfl
  · exact .inl rfl
  · exact .inr rfl

/-- Changing nothing but the draw counter leaves the frame alone. -/
theorem ReadFrame.of_drawn {s t : State} (h : t = s ∨ t = s.drawn) : ReadFrame s t := by
  rcases h with rfl | rfl
  · exact .refl _
  · exact ⟨⟨rfl, rfl, rfl, rfl, rfl, rfl, rfl, rfl, rfl, rfl, rfl, rfl, rfl⟩, rfl⟩

theorem readPpuReg_frame (a : Word) (s : State) : ReadFrame s (readPpuReg a s).2 := by
  obtain ⟨h1, h2, h3, h4, -, h6, -, -, h9⟩ := s.ppu.regRead_frame s.mem s.dots (muteDots s.cfg) (a.toNat % 8) s.cart
  exact ⟨⟨rfl, rfl, rfl, rfl, rfl, rfl, h9, h1, h2, h3, h4, h6, rfl⟩, rfl⟩

theorem readPad_frame (a : Word) (s : State) (read : Pads → Byte × Pads)
    (h : ∀ p, (read p).2.strobe = p.strobe ∧ (read p).2.buttons0 = p.buttons0 ∧ (read p).2.buttons1 = p.buttons1) :
    ReadFrame s (readPad a read s).2 := by
  obtain ⟨h1, h2, h3⟩ := h s.pads
  rcases floatingBits_state a s with e | e <;> simp only [readPad, e] <;>
    exact ⟨⟨rfl, rfl, rfl, h1, h2, h3, rfl, rfl, rfl, rfl, rfl, rfl, rfl⟩, rfl⟩

/-- What answers a read changes nothing of the frame. -/
theorem busAnswer_frame (a : Word) (s : State) : ReadFrame s (busAnswer a s).2 := by
  unfold busAnswer
  repeat' split
  · exact .refl s
  · exact readPpuReg_frame a s
  · refine (ReadFrame.of_drawn (floatingBits_state 0x4015 s)).trans ⟨⟨rfl, rfl, rfl, rfl, rfl, rfl, rfl, rfl, rfl, rfl, rfl, rfl, ?_⟩, rfl⟩
    rcases floatingBits_state 0x4015 s with e | e <;> simp only [readApuStatus, e] <;> rfl
  · exact readPad_frame a s _ (fun p => ⟨rfl, rfl, rfl⟩)
  · exact readPad_frame a s _ (fun p => ⟨rfl, rfl, rfl⟩)
  · exact .of_drawn (openBus_state a s)
  · unfold readCartridge
    split
    · exact .refl s
    · exact .of_drawn (openBus_state a s)

/-- Every part of a read cycle leaves the frame alone. -/
theorem readFrame_parts : PartSteps ReadFrame where
  refl := .refl
  trans := .trans
  cyc s := ⟨⟨rfl, rfl, rfl, rfl, rfl, rfl, rfl, rfl, rfl, rfl, rfl, rfl, rfl⟩, rfl⟩
  advance u s := by
    have f := runDots_frame s.mem (dotsUntil (s.clk.mclk + u - s.cfg.ppuOffset.val) s.clk.ppuClk) s.clk.ppuClk s.ppu s.cart
    exact ⟨⟨rfl, rfl, rfl, rfl, rfl, rfl, f.banks, f.ctrl, f.mask, f.t, f.fineX, f.palette, rfl⟩, rfl⟩
  apu s := ⟨⟨rfl, rfl, rfl, rfl, rfl, rfl, rfl, rfl, rfl, rfl, rfl, rfl, (s.apu.apuStep_kept s.cfg s.clk.cyc).settings⟩, rfl⟩
  access a s := (busAnswer_frame a s).trans ⟨⟨rfl, rfl, rfl, rfl, rfl, rfl, rfl, rfl, rfl, rfl, rfl, rfl, rfl⟩, rfl⟩
  sample s := ⟨⟨rfl, rfl, rfl, rfl, rfl, rfl, rfl, rfl, rfl, rfl, rfl, rfl, rfl⟩, rfl⟩
  prologue s := ⟨⟨rfl, rfl, rfl, rfl, rfl, rfl, rfl, rfl, rfl, rfl, rfl, rfl, rfl⟩, rfl⟩
  dmc v s := ⟨⟨rfl, rfl, rfl, rfl, rfl, rfl, rfl, rfl, rfl, rfl, rfl, rfl, (s.apu.deliver_kept v).settings⟩, rfl⟩
  sprite n s := by
    unfold spriteDone
    split
    · exact ⟨⟨rfl, rfl, rfl, rfl, rfl, rfl, rfl, rfl, rfl, rfl, rfl, rfl, rfl⟩, rfl⟩
    · exact .refl s

/-- A byte the sprite transfer writes to OAM leaves the frame alone. -/
theorem oamWrite_frame (v : Byte) (s : State) : ReadFrame s (busWrite 0x2004 v s) :=
  ⟨⟨rfl, rfl, rfl, rfl, rfl, rfl, rfl, rfl, rfl, rfl, rfl, rfl, rfl⟩, rfl⟩

theorem readFrame_cycles : CycleSteps ReadFrame := readFrame_parts.cycles oamWrite_frame

/-- THE FRAME OF A READ: a CPU read, with the DMA cycles it may be preceded by, leaves the CPU registers and all of `Untouched` alone. -/
theorem memRead_frame (a : Word) (s : State) : ReadFrame s (memRead a s).2 := readFrame_cycles.memRead a s

theorem dummyRead_frame (a : Word) (s : State) : ReadFrame s (dummyRead a s) := memRead_frame a s

@[simp] theorem memRead_cpu (a : Word) (s : State) : (memRead a s).2.cpu = s.cpu := (memRead_frame a s).cpu
@[simp] theorem memRead_mem (a : Word) (s : State) : (memRead a s).2.mem = s.mem := (memRead_frame a s).mem
@[simp] theorem memRead_cfg (a : Word) (s : State) : (memRead a s).2.cfg = s.cfg := (memRead_frame a s).cfg
@[simp] theorem memRead_fault (a : Word) (s : State) : (memRead a s).2.fault = s.fault := (memRead_frame a s).fault
@[simp] theorem dummyRead_cpu (a : Word) (s : State) : (dummyRead a s).cpu = s.cpu := (memRead_frame a s).cpu
@[simp] theorem dummyRead_mem (a : Word) (s : State) : (dummyRead a s).mem = s.mem := (memRead_frame a s).mem
@[simp] theorem dummyRead_cfg (a : Word) (s : State) : (dummyRead a s).cfg = s.cfg := (memRead_frame a s).cfg
@[simp] theorem dummyRead_fault (a : Word) (s : State) : (dummyRead a s).fault = s.fault := (memRead_frame a s).fault
@[simp] theorem dummyPc_cpu (s : State) : (dummyPc s).cpu = s.cpu := dummyRead_cpu _ s
@[simp] theorem dummyPc_mem (s : State) : (dummyPc s).mem = s.mem := dummyRead_mem _ s
@[simp] theorem dummyPc_fault (s : State) : (dummyPc s).fault = s.fault := dummyRead_fault _ s
@[simp] theorem dummyStack_cpu (s : State) : (dummyStack s).cpu = s.cpu := dummyRead_cpu _ s
@[simp] theorem dummyStack_mem (s : State) : (dummyStack s).mem = s.mem := dummyRead_mem _ s
@[simp] theorem dummyStack_fault (s : State) : (dummyStack s).fault = s.fault := dummyRead_fault _ s

/-! ### The value of a read of plain memory -/

/-- Plain memory reads the same from states with the same memory and the same tables. -/
theorem State.plainByte_congr {s t : State} (h : Untouched s t) (a : Word) : t.plainByte a = s.plainByte a := by
  unfold State.plainByte State.ramByte
  rw [h.mem, Cart.cpuSpace_of_bankView h.banks]

/-- A read cycle of plain memory answers the stored byte. -/
theorem readCycle_plain {a : Word} {s : State} {v : Byte} (h : s.plainByte a = some v) : (readCycle a s).1 = v := by
  have f : Untouched s (startTick .read s) := (readFrame_parts.startTick .read s).toUntouched
  rw [← State.plainByte_congr f] at h
  show (busAnswer a (startTick .read s)).1 = v
  unfold State.plainByte at h
  unfold busAnswer
  split at h
  · rw [if_pos ‹_›]; exact Option.some.inj h
  · split at h
    · cases h
    · rw [if_neg ‹_›, if_neg (by omega), if_neg (by omega), if_neg (by omega), if_neg (by omega), if_neg ‹_›]
      unfold readCartridge
      rw [h]

/-- A CPU read of plain memory answers the stored byte, whatever DMA cycles come before it. -/
theorem memRead_plain {a : Word} {s : State} {v : Byte} (hf : s.fault = none) (h : s.plainByte a = some v) : (memRead a s).1 = v := by
  unfold memRead
  rw [if_neg (by simp [hf])]
  split
  · refine readCycle_plain (v := v) ?_
    rw [State.plainByte_congr (readFrame_cycles.runDma a s).toUntouched]
    exact h
  · exact readCycle_plain h

/-! ### The frame of a write -/

/-- A write of a mapper register stores to no memory and leaves the CPU registers and the launch parameters alone. -/
theorem writeMapper_frame (a : Word) (v : Byte) (s : State) :
    (writeMapper a v s).mem = s.mem ∧ (writeMapper a v s).cpu = s.cpu ∧ (writeMapper a v s).cfg = s.cfg := by
  unfold writeMapper
  generalize s.cart.romWrite s.clk.cyc a v = r
  obtain ⟨c, ok⟩ := r
  cases ok <;> exact ⟨rfl, rfl, rfl⟩

/-- A write of a device register outside the PPU stores to no memory. -/
theorem State.writePlace_device (s : State) {a : Word} (h : 0x4000 ≤ a.toNat) (h' : a.toNat < 0x4020 ∨ 0x8000 ≤ a.toNat) : s.writePlace a = none := by
  unfold State.writePlace
  rw [if_neg (by omega), if_neg (by omega)]
  split
  · rfl
  · rw [if_neg (by omega)]

/-- What a write access of the CPU stores to memory: the byte at its place, nothing else (R69). -/
theorem busWrite_mem (a : Word) (v : Byte) (s : State) : (busWrite a v s).mem = s.mem.storeAt (s.writePlace a) v := by
  by_cases h1 : a.toNat < 0x2000
  · simp only [busWrite, busTarget, State.writePlace, if_pos h1]; rfl
  by_cases h2 : a.toNat < 0x4000
  · simp only [busWrite, busTarget, State.writePlace, if_neg h1, if_pos h2]
    exact s.ppu.regWrite_mem s.mem s.dots (a.toNat % 8) v s.cart
  by_cases h3 : a.toNat < 0x4020 ∨ 0x8000 ≤ a.toNat
  · rw [s.writePlace_device (by omega) h3]
    simp only [busWrite, busTarget, if_neg h1, if_neg h2]
    repeat' split
    all_goals first | omega | exact (writeMapper_frame a v _).1 | rfl
  · simp only [busWrite, busTarget, State.writePlace, if_neg h1, if_neg h2]
    rw [if_neg (by omega), if_neg (by omega), if_neg (by omega), if_neg (by omega), if_pos (by omega), if_neg (by omega), if_pos (by omega)]
    exact Space.write_eq s.cart.cpuSpace s.mem a.toNat v

/-- A write access leaves the CPU registers and the launch parameters alone. -/
theorem busWrite_cpu (a : Word) (v : Byte) (s : State) : (busWrite a v s).cpu = s.cpu ∧ (busWrite a v s).cfg = s.cfg := by
  simp only [busWrite, busTarget]
  repeat' split
  all_goals first | exact (writeMapper_frame a v _).2 | exact ⟨rfl, rfl⟩

/-- A write access below `$8000` raises no fault. -/
theorem busWrite_fault_low {a : Word} (h : a.toNat < 0x8000) (v : Byte) (s : State) : (busWrite a v s).fault = s.fault := by
  simp only [busWrite, busTarget]
  repeat' split
  all_goals first | omega | rfl

theorem startTick_mem (k : Access) (s : State) : (startTick k s).mem = s.mem := (readFrame_parts.startTick k s).mem

/-- A write cycle stores one byte. -/
theorem writeCycle_mem (a : Word) (v : Byte) (s : State) : (writeCycle a v s).mem = s.memAfterWrite a v := by
  have h := busWrite_mem a v (startTick .write s)
  rw [startTick_mem] at h
  unfold writeCycle State.memAfterWrite State.atWrite
  dsimp only
  split
  · exact h
  · exact h

theorem writeCycle_cpu (a : Word) (v : Byte) (s : State) : (writeCycle a v s).cpu = s.cpu ∧ (writeCycle a v s).cfg = s.cfg := by
  have h := busWrite_cpu a v (startTick .write s)
  have f := readFrame_parts.startTick .write s
  rw [f.cpu, f.cfg] at h
  unfold writeCycle
  dsimp only
  split
  · exact h
  · exact h

/-- THE FRAME OF A WRITE: one byte of memory at the place the address names at the moment of the access, nothing of the CPU. -/
theorem memWrite_mem {s : State} (h : s.fault = none) (a : Word) (v : Byte) : (memWrite a v s).mem = s.memAfterWrite a v := by
  unfold memWrite
  rw [if_neg (by simp [h])]
  exact writeCycle_mem a v s

@[simp] theorem memWrite_cpu (a : Word) (v : Byte) (s : State) : (memWrite a v s).cpu = s.cpu := by
  unfold memWrite
  split
  · rfl
  · exact (writeCycle_cpu a v s).1

@[simp] theorem memWrite_cfg (a : Word) (v : Byte) (s : State) : (memWrite a v s).cfg = s.cfg := by
  unfold memWrite
  split
  · rfl
  · exact (writeCycle_cpu a v s).2

theorem StoreFrame.of_untouched {s t : State} (a : Word) (h : Untouched s t) : StoreFrame a s t :=
  ⟨h.cfg, h.buttons0, h.buttons1, fun _ => h.fault, fun _ => h.banks, fun _ => h.strobe, fun _ => h.settings, fun _ => h.ctrl, fun _ => h.mask,
   fun _ => h.tempAddr, fun _ => h.fineX, fun _ => h.palette⟩

theorem StoreFrame.refl (a : Word) (s : State) : StoreFrame a s s := .of_untouched a (.refl s)

theorem StoreFrame.trans {a : Word} {s t u : State} (h : StoreFrame a s t) (k : StoreFrame a t u) : StoreFrame a s u :=
  ⟨k.cfg.trans h.cfg, k.buttons0.trans h.buttons0, k.buttons1.trans h.buttons1, fun x => (k.fault x).trans (h.fault x),
   fun x => (k.banks x).trans (h.banks x), fun x => (k.strobe x).trans (h.strobe x), fun x => (k.settings x).trans (h.settings x),
   fun x => (k.ctrl x).trans (h.ctrl x), fun x => (k.mask x).trans (h.mask x), fun x => (k.tempAddr x).trans (h.tempAddr x),
   fun x => (k.fineX x).trans (h.fineX x), fun x => (k.palette x).trans (h.palette x)⟩

/-- A write access of a PPU register leaves alone what that register is not for. -/
theorem writePpuReg_frame {a : Word} (h : 0x2000 ≤ a.toNat) (h' : a.toNat < 0x4000) (v : Byte) (s : State) : StoreFrame a s (writePpuReg a v s) := by
  have hb := (s.ppu.regWrite_frame s.mem s.dots (a.toNat % 8) v s.cart).2.2
  obtain ⟨h1, h2, h3, h4, h5⟩ := s.ppu.regWrite_fields s.mem s.dots (a.toNat % 8) v s.cart
  refine ⟨rfl, rfl, rfl, fun _ => rfl, fun _ => hb, fun _ => rfl, fun _ => rfl, fun x => h1 (by omega), fun x => h2 (by omega), fun x => h3 (by omega),
    fun x => h4 (by omega), fun x => h5 (by omega)⟩

/-- A mapper register write leaves everything outside the cartridge alone, but for a fault. -/
theorem writeMapper_store {a : Word} (h : 0x8000 ≤ a.toNat) (v : Byte) (s : State) : StoreFrame a s (writeMapper a v s) := by
  unfold writeMapper
  generalize s.cart.romWrite s.clk.cyc a v = r
  obtain ⟨c, ok⟩ := r
  cases ok <;> exact ⟨rfl, rfl, rfl, fun x => by omega, fun x => by omega, fun _ => rfl, fun _ => rfl, fun _ => rfl, fun _ => rfl, fun _ => rfl,
    fun _ => rfl, fun _ => rfl⟩

/-- A write access leaves alone every register that only another address writes. -/
theorem busWrite_frame (a : Word) (v : Byte) (s : State) : StoreFrame a s (busWrite a v s) := by
  refine StoreFrame.trans (t := { s with dbus := v }) ⟨rfl, rfl, rfl, fun _ => rfl, fun _ => rfl, fun _ => rfl, fun _ => rfl, fun _ => rfl, fun _ => rfl, fun _ => rfl,
    fun _ => rfl, fun _ => rfl⟩ ?_
  unfold busWrite busTarget
  split
  · exact ⟨rfl, rfl, rfl, fun _ => rfl, fun _ => rfl, fun _ => rfl, fun _ => rfl, fun _ => rfl, fun _ => rfl, fun _ => rfl, fun _ => rfl, fun _ => rfl⟩
  split
  · exact writePpuReg_frame (by omega) (by omega) v _
  split
  · exact ⟨rfl, rfl, rfl, fun _ => rfl, fun _ => rfl, fun _ => rfl, fun _ => rfl, fun _ => rfl, fun _ => rfl, fun _ => rfl, fun _ => rfl, fun _ => rfl⟩
  split
  · refine ⟨rfl, ?_, ?_, fun _ => rfl, fun _ => rfl, fun x => ?_, fun _ => rfl, fun _ => rfl, fun _ => rfl, fun _ => rfl, fun _ => rfl, fun _ => rfl⟩
    · show (s.pads.writeStrobe v).buttons0 = _; unfold Pads.writeStrobe; split <;> rfl
    · show (s.pads.writeStrobe v).buttons1 = _; unfold Pads.writeStrobe; split <;> rfl
    · exact absurd (BitVec.eq_of_toNat_eq ‹_›) x
  split
  · exact ⟨rfl, rfl, rfl, fun _ => rfl, fun _ => rfl, fun _ => rfl, fun x => by omega, fun _ => rfl, fun _ => rfl, fun _ => rfl, fun _ => rfl, fun _ => rfl⟩
  split
  · exact .refl a _
  split
  · exact ⟨rfl, rfl, rfl, fun _ => rfl, fun _ => rfl, fun _ => rfl, fun _ => rfl, fun _ => rfl, fun _ => rfl, fun _ => rfl, fun _ => rfl, fun _ => rfl⟩
  · exact writeMapper_store (by omega) v _

/-- THE FRAME OF A WRITE outside the CPU and memory. -/
theorem memWrite_frame (a : Word) (v : Byte) (s : State) : StoreFrame a s (memWrite a v s) := by
  unfold memWrite
  split
  · exact .refl a s
  · have h := (StoreFrame.of_untouched a (readFrame_parts.startTick .write s).toUntouched).trans (busWrite_frame a v _)
    unfold writeCycle
    dsimp only
    split
    · exact h
    · exact h.trans (.of_untouched a ((readFrame_parts.sample _).trans (readFrame_parts.advance 5 _)).toUntouched)

/-- A write below `$8000` raises no fault. -/
theorem memWrite_fault_low {a : Word} (h : a.toNat < 0x8000) (v : Byte) (s : State) : (memWrite a v s).fault = s.fault :=
  (memWrite_frame a v s).fault h

/-- A store to work RAM. -/
theorem memWrite_ram {a : Word} (h : a.toNat < 0x2000) {s : State} (hf : s.fault = none) (v : Byte) :
    (memWrite a v s).mem = { s.mem with ram := s.mem.ram.write (a.toNat % 2048) v } := by
  rw [memWrite_mem hf]
  unfold State.memAfterWrite State.writePlace
  rw [if_pos h]
  rfl

end Sys2Proof.Machine
end

