-- ==== Sys2Proof/Laws/Cartridge.lean ====
section
/-! SUPPORT. The mapper: `Remap` depends on the registers and the sizes alone, and never fails on a legal cartridge. -/

namespace Sys2Proof.Machine

/-! ### What `Remap` depends on (R527) -/

/-- The map calls, the sizes and the selected mirroring of two cartridges agree. -/
structure Cart.SameCalls (c d : Cart) : Prop where
  cpu : c.cpuCalls = d.cpuCalls
  ppu : c.ppuCalls = d.ppuCalls
  len : c.bufLen = d.bufLen
  mirroring : c.selectedMirroring = d.selectedMirroring

theorem Cart.SameCalls.symm {c d : Cart} (h : c.SameCalls d) : d.SameCalls c := ⟨h.cpu.symm, h.ppu.symm, h.len.symm, h.mirroring.symm⟩

theorem Cart.SameCalls.trans {c d e : Cart} (h : c.SameCalls d) (k : d.SameCalls e) : c.SameCalls e :=
  ⟨h.cpu.trans k.cpu, h.ppu.trans k.ppu, h.len.trans k.len, h.mirroring.trans k.mirroring⟩

/-- A cartridge and its bank view map alike. -/
theorem Cart.sameCalls_bankView (c : Cart) : c.SameCalls c.bankView := by
  obtain ⟨m, _, _, _, _, _, _, _, _, _⟩ := c
  cases m <;> exact ⟨rfl, rfl, rfl, rfl⟩

theorem Cart.sameCalls_of_bankView {c d : Cart} (h : c.bankView = d.bankView) : c.SameCalls d :=
  c.sameCalls_bankView.trans (h ▸ d.sameCalls_bankView.symm)

theorem Cart.mapAll_congr {c d : Cart} (h : c.bufLen = d.bufLen) (size : Nat) (l : List MapCall) (sp : Space) :
    c.mapAll size l sp = d.mapAll size l sp := by
  induction l generalizing sp with
  | nil => rfl
  | cons call rest ih =>
    simp only [Cart.mapAll, h]
    split
    · exact ih _
    · rfl

/-- The two tables a cartridge's registers select. -/
def Cart.tables (c : Cart) : Option Space × Option Space :=
  (c.mapAll 65536 c.cpuCalls (Space.unmapped 64), c.mapAll 16384 c.ppuCalls (Space.unmapped 16))

theorem Cart.tables_congr {c d : Cart} (h : c.SameCalls d) : c.tables = d.tables := by
  unfold Cart.tables
  rw [h.cpu, h.ppu, Cart.mapAll_congr h.len, Cart.mapAll_congr h.len]

/-- A cartridge is mapped when its tables and its mirroring mode are the selected ones. -/
theorem Cart.mapped_iff (c : Cart) :
    c.mapped ↔ c.tables = (some c.cpuSpace, some c.ppuSpace) ∧ c.mirroring = c.selectedMirroring := by
  unfold Cart.mapped Cart.remap Cart.tables
  constructor
  · intro h
    split at h
    · rename_i cs ps hc hp
      have h := Option.some.inj h
      have e1 := congrArg Cart.cpuSpace h
      have e2 := congrArg Cart.ppuSpace h
      have e3 := congrArg Cart.mirroring h
      simp only at e1 e2 e3
      rw [hc, hp, e1, e2]
      exact ⟨rfl, e3.symm⟩
    · cases h
  · rintro ⟨h, hm⟩
    have h1 := congrArg Prod.fst h
    have h2 := congrArg Prod.snd h
    simp only at h1 h2
    rw [h1, h2]
    simp only [← hm]

/-- Mapped is a property of the bank view. -/
theorem Cart.mapped_of_bankView {c d : Cart} (h : d.bankView = c.bankView) (hc : c.mapped) : d.mapped := by
  rw [Cart.mapped_iff] at hc ⊢
  have e := Cart.sameCalls_of_bankView h
  have em : d.mirroring = c.mirroring := by have := congrArg Cart.mirroring h; exact this
  rw [Cart.tables_congr e, Cart.cpuSpace_of_bankView h, Cart.ppuSpace_of_bankView h, em, e.mirroring]
  exact hc

/-- Sized is a property of the bank view. -/
theorem Cart.sized_of_bankView {c d : Cart} (h : d.bankView = c.bankView) (hc : c.sized = true) : d.sized = true := by
  have e : d.prgUnits = c.prgUnits := show d.bankView.prgUnits = c.bankView.prgUnits by rw [h]
  unfold Cart.sized
  rw [e]
  exact hc

/-- What a remapping answers is mapped. -/
theorem Cart.remap_mapped {c d : Cart} (h : c.remap = some d) : d.mapped := by
  have hs : ∀ c : Cart, ∀ mi cs ps, ({ c with mirroring := mi, cpuSpace := cs, ppuSpace := ps } : Cart).SameCalls c := by
    intro c mi cs ps
    obtain ⟨m, _, _, _, _, _, _, _, _, _⟩ := c
    cases m <;> exact ⟨rfl, rfl, rfl, rfl⟩
  unfold Cart.remap at h
  split at h
  · rename_i cs ps hc hp
    have h := Option.some.inj h
    subst h
    rw [Cart.mapped_iff, Cart.tables_congr (hs c _ _ _), (hs c _ _ _).mirroring]
    unfold Cart.tables
    rw [hc, hp]
    exact ⟨rfl, rfl⟩
  · cases h

/-- A remapping keeps the mapper and the sizes. -/
theorem Cart.remap_same {c d : Cart} (h : c.remap = some d) : d.mapper = c.mapper ∧ d.sized = c.sized := by
  unfold Cart.remap at h
  split at h
  · have h := Option.some.inj h
    subst h
    exact ⟨rfl, rfl⟩
  · cases h

/-! ### `Remap` never fails on a legal cartridge (R527) -/

/-- A window of a unit that divides the buffer's length at least once is inside the buffer. -/
theorem window_le {len unit : Nat} (hu : 0 < unit) (h : unit ≤ len) (k : Nat) : k % (len / unit) * unit + unit ≤ len := by
  have hpos : 0 < len / unit := Nat.div_pos h hu
  have h1 : k % (len / unit) + 1 ≤ len / unit := Nat.mod_lt k hpos
  calc k % (len / unit) * unit + unit = (k % (len / unit) + 1) * unit := by rw [Nat.add_mul, Nat.one_mul]
    _ ≤ len / unit * unit := Nat.mul_le_mul_right _ h1
    _ ≤ len := Nat.div_mul_le_self _ _

/-- A window of a multiple of 1 KiB, at a bank-aligned target inside the space, meets the precondition of `map`. -/
theorem window_ok {len unit target size k : Nat} (b : BufId) (w : Bool) (hu : 0 < unit) (hl : unit ≤ len) (hm : unit % 1024 = 0)
    (ht : target % 1024 = 0) (hs : target + unit ≤ size) :
    MapCall.ok size len { buf := b, writable := w, target := target, start := k % (len / unit) * unit, len := unit } = true := by
  have h1 := window_le hu hl k
  have h2 : k % (len / unit) * unit % 1024 = 0 := by rw [Nat.mul_mod, hm]; simp
  simp only [MapCall.ok, Bool.and_eq_true, decide_eq_true_eq]
  exact ⟨⟨⟨⟨hm, ht⟩, h2⟩, h1⟩, hs⟩

theorem Cart.mapAll_isSome {c : Cart} {size : Nat} {l : List MapCall} (h : ∀ call ∈ l, call.ok size (c.bufLen call.buf) = true) (sp : Space) :
    (c.mapAll size l sp).isSome = true := by
  induction l generalizing sp with
  | nil => rfl
  | cons call rest ih =>
    simp only [Cart.mapAll, Space.map?, h call (List.mem_cons_self ..), if_true]
    exact ih (fun x hx => h x (List.mem_cons_of_mem _ hx)) _

theorem Cart.prgWindow_ok {c : Cart} {unit target : Nat} (k : Nat) (hu : 0 < unit) (hl : unit ≤ c.prgLen) (hm : unit % 1024 = 0)
    (ht : target % 1024 = 0) (hs : target + unit ≤ 65536) : (c.prgWindow unit target k).ok 65536 c.prgLen = true :=
  window_ok .prg false hu hl hm ht hs

theorem Cart.chrWindow_ok {c : Cart} {unit target : Nat} (k : Nat) (hu : 0 < unit) (hl : unit ≤ c.chrLen) (hm : unit % 1024 = 0)
    (ht : target % 1024 = 0) (hs : target + unit ≤ 16384) : (c.chrWindow unit target k).ok 16384 c.chrLen = true :=
  window_ok .chr c.chrIsRam hu hl hm ht hs

/-- Every cartridge has at least 8 KiB of CHR. -/
theorem Cart.chrLen_ge (c : Cart) : 8192 ≤ c.chrLen := by
  unfold Cart.chrLen Cart.chrIsRam
  split
  · omega
  · simp at *; omega

/-- The PRG windows of a legal cartridge lie in its PRG ROM. -/
theorem Cart.prgCalls_ok {c : Cart} (h : c.sized = true) : ∀ call ∈ c.prgCalls, call.ok 65536 (c.bufLen call.buf) = true := by
  have h1 : 16384 ≤ c.prgLen := by
    simp only [Cart.sized, decide_eq_true_eq] at h
    unfold Cart.prgLen
    omega
  have w16 : ∀ target k, target % 1024 = 0 → target + 16384 ≤ 65536 → (c.prg16 target k).ok 65536 c.prgLen = true :=
    fun target k ht hs => Cart.prgWindow_ok k (by omega) h1 (by omega) ht hs
  have w8 : ∀ target k, target % 1024 = 0 → target + 8192 ≤ 65536 → (c.prg8 target k).ok 65536 c.prgLen = true :=
    fun target k ht hs => Cart.prgWindow_ok k (by omega) (by omega) (by omega) ht hs
  have w32 : ∀ k, ∀ call ∈ c.prg32 k, call.ok 65536 (c.bufLen call.buf) = true := by
    intro k call hc
    unfold Cart.prg32 at hc
    split at hc
    · simp only [List.mem_cons, List.not_mem_nil, or_false] at hc
      rcases hc with rfl | rfl <;> exact w16 _ _ (by omega) (by omega)
    · simp only [List.mem_cons, List.not_mem_nil, or_false] at hc
      subst hc
      exact Cart.prgWindow_ok k (by omega) (by omega) (by omega) (by omega) (by omega)
  intro call hc
  unfold Cart.prgCalls Cart.nromPrg at hc
  split at hc
  · simp only [List.mem_cons, List.not_mem_nil, or_false] at hc
    rcases hc with rfl | rfl <;> exact w16 _ _ (by omega) (by omega)
  · rename_i r hr
    split at hc
    · simp only [List.mem_cons, List.not_mem_nil, or_false] at hc
      rcases hc with rfl | rfl <;> exact w16 _ _ (by omega) (by omega)
    · simp only [List.mem_cons, List.not_mem_nil, or_false] at hc
      rcases hc with rfl | rfl <;> exact w16 _ _ (by omega) (by omega)
    · exact w32 _ call hc
  · simp only [List.mem_cons, List.not_mem_nil, or_false] at hc
    rcases hc with rfl | rfl <;> exact w16 _ _ (by omega) (by omega)
  · simp only [List.mem_cons, List.not_mem_nil, or_false] at hc
    rcases hc with rfl | rfl <;> exact w16 _ _ (by omega) (by omega)
  · simp only [List.mem_cons, List.not_mem_nil, or_false] at hc
    rcases hc with rfl | rfl | rfl | rfl <;> exact w8 _ _ (by omega) (by omega)
  · exact w32 _ call hc

/-- The CHR windows of every cartridge lie in its CHR. -/
theorem Cart.chrCalls_ok (c : Cart) : ∀ call ∈ c.chrCalls, call.ok 16384 (c.bufLen call.buf) = true := by
  have h8 := c.chrLen_ge
  have w8 : ∀ k, (c.chrWindow 8192 0 k).ok 16384 c.chrLen = true := fun k => Cart.chrWindow_ok k (by omega) h8 (by omega) (by omega) (by omega)
  have w4 : ∀ target k, target % 1024 = 0 → target + 4096 ≤ 16384 → (c.chrWindow 4096 target k).ok 16384 c.chrLen = true :=
    fun target k ht hs => Cart.chrWindow_ok k (by omega) (by omega) (by omega) ht hs
  have w1 : ∀ target k, target % 1024 = 0 → target + 1024 ≤ 16384 → (c.chrWindow 1024 target k).ok 16384 c.chrLen = true :=
    fun target k ht hs => Cart.chrWindow_ok k (by omega) (by omega) (by omega) ht hs
  intro call hc
  unfold Cart.chrCalls at hc
  split at hc
  · simp only [List.mem_cons, List.not_mem_nil, or_false] at hc; subst hc; exact w8 _
  · split at hc
    · simp only [List.mem_cons, List.not_mem_nil, or_false] at hc
      rcases hc with rfl | rfl <;> exact w4 _ _ (by omega) (by omega)
    · simp only [List.mem_cons, List.not_mem_nil, or_false] at hc; subst hc; exact w8 _
  · simp only [List.mem_cons, List.not_mem_nil, or_false] at hc; subst hc; exact w8 _
  · simp only [List.mem_cons, List.not_mem_nil, or_false] at hc; subst hc; exact w8 _
  · rename_i r hr
    simp only [List.mem_cons, List.not_mem_nil, or_false] at hc
    rcases hc with rfl | rfl | rfl | rfl | rfl | rfl | rfl | rfl <;> refine w1 _ _ ?_ ?_ <;> split <;> omega
  · simp only [List.mem_cons, List.not_mem_nil, or_false] at hc; subst hc; exact w8 _

/-- A four-page selection needs a four-screen cartridge. -/
theorem Cart.selectedMirroring_four {c : Cart} (h : c.selectedMirroring = .fourScreen) : c.headerFourScreen = true := by
  unfold Cart.selectedMirroring Cart.headerMirroring at h
  repeat' split at h
  all_goals first | assumption | cases h

/-- The nametable pages lie in the cartridge's nametable RAM. -/
theorem Cart.mirroring_ok (c : Cart) : ∀ call ∈ c.selectedMirroring.calls, call.ok 16384 (c.bufLen call.buf) = true := by
  have hp : ∀ n, n < 4 → 1024 * c.selectedMirroring.page n + 1024 ≤ c.vramLen := by
    intro n hn
    unfold Cart.vramLen
    cases hm : c.selectedMirroring with
    | fourScreen => rw [Cart.selectedMirroring_four hm]; simp only [Mirroring.page, if_true]; omega
    | _ => simp only [Mirroring.page]; split <;> omega
  have hb : ∀ bank, bank < 16 → (c.selectedMirroring.ntCall bank).ok 16384 c.vramLen = true := by
    intro bank hb
    have := hp (bank % 4) (Nat.mod_lt _ (by decide))
    simp only [MapCall.ok, Mirroring.ntCall, Bool.and_eq_true]
    exact ⟨⟨⟨⟨by decide, decide_eq_true (by omega)⟩, decide_eq_true (by omega)⟩, decide_eq_true this⟩, decide_eq_true (by omega)⟩
  intro call hc
  simp only [Mirroring.calls, List.mem_cons, List.not_mem_nil, or_false] at hc
  rcases hc with rfl | rfl | rfl | rfl | rfl | rfl | rfl | rfl <;> exact hb _ (by omega)

/-- `Remap()` never violates the precondition of `map` on a cartridge of legal size (R527). -/
theorem Cart.remap_isSome {c : Cart} (h : c.sized = true) : ∃ d, c.remap = some d := by
  have h1 : (c.mapAll 65536 c.cpuCalls (Space.unmapped 64)).isSome = true := by
    refine Cart.mapAll_isSome (fun call hc => ?_) _
    unfold Cart.cpuCalls at hc
    rw [List.mem_append] at hc
    rcases hc with hc | hc
    · simp only [List.mem_cons, List.not_mem_nil, or_false] at hc
      rcases hc with rfl | rfl | rfl | rfl | rfl <;> rfl
    · exact c.prgCalls_ok h call hc
  have h2 : (c.mapAll 16384 c.ppuCalls (Space.unmapped 16)).isSome = true := by
    refine Cart.mapAll_isSome (fun call hc => ?_) _
    unfold Cart.ppuCalls at hc
    rw [List.mem_append] at hc
    rcases hc with hc | hc
    · exact c.chrCalls_ok call hc
    · exact c.mirroring_ok call hc
  obtain ⟨cs, hcs⟩ := Option.isSome_iff_exists.mp h1
  obtain ⟨ps, hps⟩ := Option.isSome_iff_exists.mp h2
  unfold Cart.remap
  rw [hcs, hps]
  exact ⟨_, rfl⟩

/-! ### What the windows show -/

/-- After its `map` calls a space reads as the last call that covers the address says, or as before (R61, R62). -/
theorem Cart.mapAll_read {c : Cart} {size : Nat} {l : List MapCall} {sp sq : Space} (h : c.mapAll size l sp = some sq) (m : Buffers) {a : Nat}
    (ha : a / 1024 < sp.length) :
    sq.read m a = l.foldl (fun old call => if call.target ≤ a ∧ a < call.target + call.len
      then some ((m.get call.buf).read (call.start + (a - call.target))) else old) (sp.read m a) := by
  induction l generalizing sp with
  | nil => cases h; rfl
  | cons call rest ih =>
    unfold Cart.mapAll at h
    split at h
    · rename_i sp' hs
      unfold Space.map? at hs
      split at hs
      · rename_i ok
        cases hs
        simp only [MapCall.ok, Bool.and_eq_true, decide_eq_true_eq] at ok
        rw [ih h (by rw [Space.length_mapFrom]; exact ha), List.foldl_cons]
        congr 1
        unfold Space.read Space.bank
        rw [Space.getD_mapFrom _ _ _ ha, Nat.zero_add]
        unfold MapCall.entry
        by_cases hc : call.target ≤ a ∧ a < call.target + call.len
        · rw [if_pos hc, if_pos (by omega)]
          dsimp only
          congr 2
          omega
        · rw [if_neg hc, if_neg (by omega)]
      · cases hs
    · cases h

/-- The two spaces of a mapped cartridge, as their `map` calls fill them. -/
theorem Cart.mapped_spaces {c : Cart} (h : c.mapped) :
    c.mapAll 65536 c.cpuCalls (Space.unmapped 64) = some c.cpuSpace ∧ c.mapAll 16384 c.ppuCalls (Space.unmapped 16) = some c.ppuSpace := by
  have := (Cart.mapped_iff c).mp h |>.1
  exact ⟨congrArg Prod.fst this, congrArg Prod.snd this⟩

/-! ### Register writes -/

/-- A register write leaves the sizes as they were. -/
@[simp] theorem Cart.sized_withMapper (c : Cart) (m : Mapper) : (c.withMapper m).sized = c.sized := rfl

/-- Remapping a cartridge of legal size succeeds and leaves it legal and mapped. -/
theorem Cart.tryRemap_ok {c : Cart} (h : c.sized = true) : (c.tryRemap).2 = true ∧ (c.tryRemap).1.sized = true ∧ (c.tryRemap).1.mapped := by
  obtain ⟨d, hd⟩ := Cart.remap_isSome h
  unfold Cart.tryRemap
  rw [hd]
  exact ⟨rfl, (Cart.remap_same hd).2.trans h, Cart.remap_mapped hd⟩

/-- A mapper register write on a cartridge of legal size raises no `ConfigError` and leaves it legal and mapped (R342, R523, R527). -/
theorem Cart.romWrite_ok {c : Cart} (h : c.sized = true) (hm : c.mapped) (cyc : Nat) (a : Word) (v : Byte) :
    (c.romWrite cyc a v).2 = true ∧ (c.romWrite cyc a v).1.sized = true ∧ (c.romWrite cyc a v).1.mapped := by
  have k : ∀ m, (c.withMapper m).sized = true := fun _ => h
  unfold Cart.romWrite
  split
  · exact ⟨rfl, h, hm⟩
  · rename_i r hr
    split
    · refine ⟨rfl, k _, ?_⟩
      rw [Cart.mapped_iff] at hm ⊢
      have hs : (c.withMapper (.mmc1 { r with lastWriteCyc := cyc })).SameCalls c := by
        obtain ⟨m, _, _, _, _, _, _, _, _, _⟩ := c
        subst hr
        exact ⟨rfl, rfl, rfl, rfl⟩
      rw [Cart.tables_congr hs, hs.mirroring]
      exact hm
    · exact Cart.tryRemap_ok (k _)
  all_goals exact Cart.tryRemap_ok (k _)

end Sys2Proof.Machine
end

