-- ==== Sys2Proof/Laws/Operands.lean ====
section
/-! SUPPORT. One law for each shared operation: the addressing modes, the templates, the stack, taking and leaving an exception. -/

namespace Sys2Proof.Machine

/-! ### Zero page and the stack as plain memory -/

/-- A page-0 address lies in work RAM. -/
theorem zext_toNat (b : Byte) : (zext b).toNat = b.toNat := by
  unfold zext; rw [BitVec.toNat_setWidth]; omega

/-- A stack address lies in page 1. -/
theorem stackAddr_toNat (b : Byte) : (stackAddr b).toNat = 256 + b.toNat := by
  unfold stackAddr word
  have h : ((1 : Byte) ++ b).toNat = (1 : Byte).toNat <<< 8 ||| b.toNat := BitVec.toNat_append _ _
  rw [h, show (1 : Byte).toNat <<< 8 = 2 ^ 8 * 1 from rfl, ← Nat.two_pow_add_eq_or_of_lt b.isLt]

theorem State.plainByte_low (s : State) {a : Word} (h : a.toNat < 0x2000) : s.plainByte a = some (s.ramByte a) := by
  unfold State.plainByte; rw [if_pos h]

/-- A read of work RAM answers its byte. -/
theorem memRead_ram {a : Word} {s : State} (hf : s.fault = none) (h : a.toNat < 0x2000) : (memRead a s).1 = s.ramByte a :=
  memRead_plain hf (s.plainByte_low h)

theorem memRead_zp {s : State} (hf : s.fault = none) (z : Byte) : (memRead (zext z) s).1 = s.ramByte (zext z) :=
  memRead_ram hf (by rw [zext_toNat]; omega)

/-- Work RAM is the same in states with the same memory. -/
theorem State.ramByte_congr {s t : State} (h : t.mem = s.mem) (a : Word) : t.ramByte a = s.ramByte a := by
  unfold State.ramByte; rw [h]

/-! ### Addressing modes -/

theorem zpPointer_frame (p : Byte) (s : State) : ReadFrame s (zpPointer p s).2 := (memRead_frame _ s).trans (memRead_frame _ _)

theorem zpPointer_value {s : State} (hf : s.fault = none) (p : Byte) : (zpPointer p s).1 = s.zpPair p := by
  show word (memRead (zext (p + 1)) (memRead (zext p) s).2).1 (memRead (zext p) s).1 = _
  rw [memRead_zp hf, memRead_zp (by simp [hf]), State.ramByte_congr (memRead_mem _ s)]
  rfl

theorem addrIzx_frame (z : Byte) (s : State) : ReadFrame s (addrIzx z s).2 := (dummyRead_frame _ s).trans (zpPointer_frame _ _)

theorem addrIzx_value {s : State} (hf : s.fault = none) (z : Byte) : (addrIzx z s).1 = s.zpPair (z + s.cpu.x) := by
  show (zpPointer (z + (dummyRead (zext z) s).cpu.x) (dummyRead (zext z) s)).1 = _
  rw [zpPointer_value (by simp [hf]), dummyRead_cpu]
  unfold State.zpPair
  rw [State.ramByte_congr (dummyRead_mem _ s), State.ramByte_congr (dummyRead_mem _ s)]

theorem indexRead_frame (base : Word) (r : Byte) (s : State) : ReadFrame s (indexRead base r s).2 := by
  unfold indexRead
  dsimp only
  split
  · exact dummyRead_frame _ s
  · exact .refl s

/-- Forming the address of a read operand leaves the frame of a read alone. -/
theorem readAddress_frame (m : MemMode) (s : State) : ReadFrame s (readAddress m s).2 := by
  cases m with
  | zp z => exact .refl s
  | zpx z => exact dummyRead_frame _ s
  | zpy z => exact dummyRead_frame _ s
  | abs a => exact .refl s
  | abx a => exact indexRead_frame a _ s
  | aby a => exact indexRead_frame a _ s
  | izx z => exact addrIzx_frame z s
  | izy z => exact (zpPointer_frame z s).trans (indexRead_frame _ _ _)

/-- Forming the address of a store leaves the frame of a read alone. -/
theorem storeAddress_frame (m : MemMode) (s : State) : ReadFrame s (storeAddress m s).2 := by
  cases m with
  | zp z => exact .refl s
  | zpx z => exact dummyRead_frame _ s
  | zpy z => exact dummyRead_frame _ s
  | abs a => exact .refl s
  | abx a => exact dummyRead_frame _ s
  | aby a => exact dummyRead_frame _ s
  | izx z => exact addrIzx_frame z s
  | izy z => exact (zpPointer_frame z s).trans (dummyRead_frame _ _)

/-- The address of a read operand is the effective address. -/
theorem readAddress_value {s : State} (hf : s.fault = none) (m : MemMode) : (readAddress m s).1 = s.effective m := by
  cases m with
  | izx z => exact addrIzx_value hf z
  | izy z =>
    show indexed (zpPointer z s).1 (zpPointer z s).2.cpu.y = _
    rw [zpPointer_value hf, (zpPointer_frame z s).cpu]; rfl
  | _ => rfl

/-- The address of a store is the effective address. -/
theorem storeAddress_value {s : State} (hf : s.fault = none) (m : MemMode) : (storeAddress m s).1 = s.effective m := by
  cases m with
  | izx z => exact addrIzx_value hf z
  | izy z =>
    show indexed (zpPointer z s).1 (zpPointer z s).2.cpu.y = _
    rw [zpPointer_value hf, (zpPointer_frame z s).cpu]; rfl
  | _ => rfl

/-! ### Read instructions, implied instructions -/

theorem readOperand_frame (o : Operand) (s : State) : ReadFrame s (readOperand o s).2 := by
  cases o with
  | imm v => exact .refl s
  | mem m => exact (readAddress_frame m s).trans (memRead_frame _ _)

/-- An operand in plain memory is the byte at the effective address. -/
theorem readOperand_plain {s : State} (hf : s.fault = none) {m : MemMode} {v : Byte} (h : s.plainByte (s.effective m) = some v) :
    (readOperand (.mem m) s).1 = v := by
  have f := readAddress_frame m s
  show (memRead (readAddress m s).1 (readAddress m s).2).1 = v
  rw [readAddress_value hf]
  exact memRead_plain (f.fault.trans hf) ((State.plainByte_congr f.toUntouched _).trans h)

/-- Replacing the registers leaves the rest alone. -/
theorem State.setCpu_untouched (c : Cpu) (s : State) : Untouched s (s.setCpu c) :=
  ⟨rfl, rfl, rfl, rfl, rfl, rfl, rfl, rfl, rfl, rfl, rfl, rfl, rfl⟩

/-- A read instruction: the effect on the registers of the operand's value. -/
theorem readInstr_cpu (f : Byte → Cpu → Cpu) (o : Operand) (s : State) : (readInstr f o s).cpu = f (readOperand o s).1 s.cpu := by
  show f (readOperand o s).1 (readOperand o s).2.cpu = _
  rw [(readOperand_frame o s).cpu]

/-- A read instruction: what it leaves alone. -/
theorem readInstr_untouched (f : Byte → Cpu → Cpu) (o : Operand) (s : State) : Untouched s (readInstr f o s) :=
  (readOperand_frame o s).toUntouched.trans (State.setCpu_untouched _ _)

theorem impliedInstr_cpu (f : Cpu → Cpu) (s : State) : (impliedInstr f s).cpu = f s.cpu := by
  show f (dummyPc s).cpu = _
  rw [dummyPc_cpu]

theorem impliedInstr_untouched (f : Cpu → Cpu) (s : State) : Untouched s (impliedInstr f s) :=
  (dummyRead_frame _ s).toUntouched.trans (State.setCpu_untouched _ _)

/-! ### Stores -/

theorem store_cpu (v : Byte) (m : MemMode) (s : State) : (store v m s).cpu = s.cpu := by
  show (memWrite (storeAddress m s).1 v (storeAddress m s).2).cpu = _
  rw [memWrite_cpu, (storeAddress_frame m s).cpu]

theorem store_mem {s : State} (hf : s.fault = none) (v : Byte) (m : MemMode) :
    (store v m s).mem = (storeAddress m s).2.memAfterWrite (s.effective m) v := by
  show (memWrite (storeAddress m s).1 v (storeAddress m s).2).mem = _
  rw [storeAddress_value hf]
  exact memWrite_mem ((storeAddress_frame m s).fault.trans hf) _ _

theorem store_frame {s : State} (hf : s.fault = none) (v : Byte) (m : MemMode) : StoreFrame (s.effective m) s (store v m s) := by
  have h := (StoreFrame.of_untouched (s.effective m) (storeAddress_frame m s).toUntouched).trans (memWrite_frame (s.effective m) v _)
  rw [← storeAddress_value hf] at h ⊢
  exact h

/-! ### Mapper writes raise no fault on a legal cartridge -/

theorem State.mapped_of_banks {s t : State} (h : t.cart.bankView = s.cart.bankView) (hi : s.CartInv) : t.CartInv :=
  ⟨Cart.sized_of_bankView h hi.1, Cart.mapped_of_bankView h hi.2⟩

theorem writeMapper_ok {s : State} (hi : s.CartInv) (a : Word) (v : Byte) : (writeMapper a v s).fault = s.fault ∧ (writeMapper a v s).CartInv := by
  have h := Cart.romWrite_ok hi.1 hi.2 s.clk.cyc a v
  unfold writeMapper
  generalize s.cart.romWrite s.clk.cyc a v = r at *
  obtain ⟨c, ok⟩ := r
  obtain ⟨rfl, r2, r3⟩ := h
  exact ⟨rfl, r2, r3⟩

/-- A write to a legal cartridge raises no fault. -/
theorem memWrite_ok {s : State} (hi : s.CartInv) (a : Word) (v : Byte) : (memWrite a v s).fault = s.fault ∧ (memWrite a v s).CartInv := by
  by_cases ha : a.toNat < 0x8000
  · exact ⟨(memWrite_frame a v s).fault ha, State.mapped_of_banks ((memWrite_frame a v s).banks ha) hi⟩
  · unfold memWrite
    split
    · exact ⟨rfl, hi⟩
    · have f := readFrame_parts.startTick .write s
      have k : ∀ t : State, t.CartInv → (busWrite a v t).fault = t.fault ∧ (busWrite a v t).CartInv := by
        intro t ht
        have e : busWrite a v t = writeMapper a v { t with dbus := v } := by
          unfold busWrite busTarget
          rw [if_neg (by omega), if_neg (by omega), if_neg (by omega), if_neg (by omega), if_neg (by omega), if_neg (by omega), if_neg ha]
        rw [e]
        exact writeMapper_ok (s := { t with dbus := v }) ht a v
      obtain ⟨k1, k2⟩ := k _ (State.mapped_of_banks f.banks hi)
      have k3 := k1.trans f.fault
      unfold writeCycle
      dsimp only
      split
      · exact ⟨k3, k2⟩
      · have g := (readFrame_parts.sample (busWrite a v (startTick .write s))).trans (readFrame_parts.advance 5 _)
        exact ⟨g.fault.trans k3, State.mapped_of_banks g.banks k2⟩

/-! ### Read-modify-write -/

/-- The state before the two writes of a read-modify-write instruction, the byte it has read. -/
theorem rmwInstr_eq {s : State} (hf : s.fault = none) (f : Byte → Flags → Byte × Flags) (g : Byte → Cpu → Cpu) (m : MemMode) (hi : s.CartInv) :
    rmwInstr f g m s =
      (let old := (memRead (s.effective m) (storeAddress m s).2).1
       let u := (memRead (s.effective m) (storeAddress m s).2).2
       let r := f old s.cpu.p
       (memWrite (s.effective m) r.1 (memWrite (s.effective m) old u)).setCpu (g r.1 { s.cpu with p := r.2 })) := by
  have e := storeAddress_value hf m
  have fr := (storeAddress_frame m s).trans (memRead_frame (s.effective m) (storeAddress m s).2)
  unfold rmwInstr
  generalize storeAddress m s = st at *
  obtain ⟨a, t⟩ := st
  dsimp only at e fr ⊢
  subst e
  generalize memRead (s.effective m) t = mr at *
  obtain ⟨old, u⟩ := mr
  dsimp only at fr ⊢
  rw [fr.cpu]
  have hu := State.mapped_of_banks fr.banks hi
  obtain ⟨w1, w2⟩ := memWrite_ok hu (s.effective m) old
  obtain ⟨w3, -⟩ := memWrite_ok w2 (s.effective m) (f old s.cpu.p).1
  rw [if_neg (by rw [w3, w1, fr.fault, hf]; simp)]
  simp [fr.cpu]

/-! ### The stack -/

theorem push_cpu (v : Byte) (s : State) : (push v s).cpu = { s.cpu with sp := s.cpu.sp - 1 } := by
  show (memWrite (stackAddr s.cpu.sp) v s |>.setSp ((memWrite (stackAddr s.cpu.sp) v s).cpu.sp - 1)).cpu = _
  simp [State.setSp]

theorem push_fault (v : Byte) (s : State) : (push v s).fault = s.fault :=
  memWrite_fault_low (by rw [stackAddr_toNat]; omega) v s

/-- A push stores one byte in page 1 of work RAM. -/
theorem push_mem {s : State} (hf : s.fault = none) (v : Byte) :
    (push v s).mem = { s.mem with ram := s.mem.ram.write (256 + s.cpu.sp.toNat) v } := by
  show (memWrite (stackAddr s.cpu.sp) v s).mem = _
  rw [memWrite_ram (by rw [stackAddr_toNat]; omega) hf, stackAddr_toNat]
  have : (256 + s.cpu.sp.toNat) % 2048 = 256 + s.cpu.sp.toNat := by omega
  rw [this]

/-- A store to work RAM leaves all of `Untouched` but memory alone. -/
theorem StoreFrame.untouched {a : Word} {s t : State} (h : StoreFrame a s t) (ha : a.toNat < 0x2000) : Untouched { s with mem := t.mem } t := by
  have hne : a ≠ 0x4016 := by
    intro e; subst e; simp at ha
  exact ⟨rfl, h.cfg, h.fault (by omega), h.strobe hne, h.buttons0, h.buttons1, h.banks (by omega), h.ctrl (.inl ha), h.mask (.inl ha), h.tempAddr (.inl ha),
   h.fineX (.inl ha), h.palette (.inl ha), h.settings (.inl (by omega))⟩

theorem RestUntouched.trans {s t u : State} (h : RestUntouched s t) (k : RestUntouched t u) : RestUntouched s u :=
  ⟨rfl, k.cfg.trans h.cfg, k.fault.trans h.fault, k.strobe.trans h.strobe, k.buttons0.trans h.buttons0,
   k.buttons1.trans h.buttons1, k.banks.trans h.banks, k.ctrl.trans h.ctrl, k.mask.trans h.mask, k.tempAddr.trans h.tempAddr,
   k.fineX.trans h.fineX, k.palette.trans h.palette, k.settings.trans h.settings⟩

theorem RestUntouched.of_untouched {s t : State} (h : Untouched s t) : RestUntouched s t :=
  ⟨rfl, h.cfg, h.fault, h.strobe, h.buttons0, h.buttons1, h.banks, h.ctrl, h.mask, h.tempAddr, h.fineX, h.palette, h.settings⟩

theorem RestUntouched.setCpu (c : Cpu) (s : State) : RestUntouched s (s.setCpu c) := .of_untouched (State.setCpu_untouched c s)

theorem push_rest (v : Byte) (s : State) : RestUntouched s (push v s) :=
  (show RestUntouched s (memWrite (stackAddr s.cpu.sp) v s) from (memWrite_frame _ v s).untouched (by rw [stackAddr_toNat]; omega)).trans (.setCpu _ _)

theorem pull_cpu (s : State) : (pull s).2.cpu = { s.cpu with sp := s.cpu.sp + 1 } := by
  show (memRead _ (s.setSp (s.cpu.sp + 1))).2.cpu = _
  rw [memRead_cpu]; rfl

theorem pull_untouched (s : State) : Untouched s (pull s).2 :=
  (State.setCpu_untouched _ s).trans (memRead_frame _ _).toUntouched

/-- A pull answers the byte of page 1 that the incremented stack pointer addresses. -/
theorem pull_value {s : State} (hf : s.fault = none) : (pull s).1 = s.mem.ram.read (256 + (s.cpu.sp + 1).toNat) := by
  show (memRead (stackAddr (s.setSp (s.cpu.sp + 1)).cpu.sp) (s.setSp (s.cpu.sp + 1))).1 = _
  rw [memRead_ram (s := s.setSp (s.cpu.sp + 1)) hf (by rw [stackAddr_toNat]; omega)]
  unfold State.ramByte
  rw [stackAddr_toNat, State.setSp_sp, Nat.mod_eq_of_lt (by omega)]
  rfl

/-! ### Control -/

theorem loadPc_cpu (vec : Word) (s : State) :
    (loadPc vec s).cpu = { s.cpu with pc := word (memRead (vec + 1) (memRead vec s).2).1 (memRead vec s).1 } := by
  have h : (memRead (vec + 1) (memRead vec s).2).2.cpu = s.cpu := by rw [memRead_cpu, memRead_cpu]
  unfold loadPc
  generalize memRead vec s = r1 at *
  obtain ⟨l, t⟩ := r1
  dsimp only at h ⊢
  generalize memRead (vec + 1) t = r2 at *
  obtain ⟨k, u⟩ := r2
  dsimp only at h ⊢
  rw [← h]
  rfl

theorem loadPc_untouched (vec : Word) (s : State) : Untouched s (loadPc vec s) :=
  ((memRead_frame vec s).trans (memRead_frame _ _)).toUntouched.trans (State.setCpu_untouched _ _)

/-- A vector in plain memory is loaded whole. -/
theorem loadPc_plain {vec : Word} {s : State} {l h : Byte} (hf : s.fault = none) (hl : s.plainByte vec = some l)
    (hh : s.plainByte (vec + 1) = some h) : (loadPc vec s).cpu = { s.cpu with pc := word h l } := by
  rw [loadPc_cpu, memRead_plain hf hl, memRead_plain (by simp [hf]) ((State.plainByte_congr (memRead_frame vec s).toUntouched _).trans hh)]

theorem takeBranch_cpu (d : Byte) (s : State) : (takeBranch d s).cpu = { s.cpu with pc := branchTarget s.cpu.pc d } := by
  unfold takeBranch
  dsimp only
  split <;> simp [State.setPc]

theorem takeBranch_untouched (d : Byte) (s : State) : Untouched s (takeBranch d s) := by
  unfold takeBranch
  dsimp only
  split
  · exact ((dummyRead_frame _ s).trans (dummyRead_frame _ _)).toUntouched.trans (State.setCpu_untouched _ _)
  · exact (dummyRead_frame _ s).toUntouched.trans (State.setCpu_untouched _ _)

theorem branchInstr_cpu (b : Bool) (d : Byte) (s : State) :
    (branchInstr b d s).cpu = { s.cpu with pc := if b then branchTarget s.cpu.pc d else s.cpu.pc } := by
  unfold branchInstr
  cases b
  · rfl
  · simp [takeBranch_cpu]

theorem branchInstr_untouched (b : Bool) (d : Byte) (s : State) : Untouched s (branchInstr b d s) := by
  unfold branchInstr
  cases b
  · exact .refl s
  · exact takeBranch_untouched d s

/-! ### Exceptions -/

theorem selectVector_frame (s : State) : ReadFrame s (selectVector s).2 := by
  unfold selectVector
  split
  · exact ⟨⟨rfl, rfl, rfl, rfl, rfl, rfl, rfl, rfl, rfl, rfl, rfl, rfl, rfl⟩, rfl⟩
  · exact .refl s

theorem pushedPc_cpu (s : State) : (pushedPc s).cpu = { s.cpu with sp := s.cpu.sp - 2 } := by
  unfold pushedPc
  rw [push_cpu, push_cpu]
  simp only [Cpu.mk.injEq, true_and, and_true]
  bv_omega

theorem pushedPc_fault (s : State) : (pushedPc s).fault = s.fault := by
  unfold pushedPc; rw [push_fault, push_fault]

theorem pushedPc_mem {s : State} (hf : s.fault = none) :
    (pushedPc s).mem = { s.mem with ram := (s.mem.ram.write (256 + s.cpu.sp.toNat) (hi s.cpu.pc)).write (256 + (s.cpu.sp - 1).toNat) (lo s.cpu.pc) } := by
  unfold pushedPc
  rw [push_mem (by rw [push_fault]; exact hf), push_mem hf, push_cpu]

theorem pushedPc_rest (s : State) : RestUntouched s (pushedPc s) := (push_rest _ s).trans (push_rest _ _)

/-- The state of an exception entry before the vector is read. -/
def pushedAll (b : Bool) (s : State) : State :=
  let u := (selectVector (pushedPc s)).2
  let w := push (u.cpu.p.toByte b) u
  w.setP { w.cpu.p with i := true }

theorem takeException_eq (b : Bool) (s : State) : takeException b s = loadPc (selectVector (pushedPc s)).1 (pushedAll b s) := rfl

theorem pushedAll_cpu (b : Bool) (s : State) : (pushedAll b s).cpu = { s.cpu with sp := s.cpu.sp - 3, p := { s.cpu.p with i := true } } := by
  unfold pushedAll
  dsimp only
  simp only [State.setP, State.setCpu_cpu, push_cpu, (selectVector_frame _).cpu, pushedPc_cpu, Cpu.mk.injEq, true_and, and_true]
  bv_omega

theorem pushedAll_fault (b : Bool) (s : State) : (pushedAll b s).fault = s.fault := by
  show (push _ (selectVector (pushedPc s)).2).fault = _
  rw [push_fault, (selectVector_frame _).fault, pushedPc_fault]

/-- An exception entry stores the program counter and the status in page 1 of work RAM. -/
theorem pushedAll_mem (b : Bool) {s : State} (hf : s.fault = none) :
    (pushedAll b s).mem = { s.mem with ram := ((s.mem.ram.write (256 + s.cpu.sp.toNat) (hi s.cpu.pc)).write
      (256 + (s.cpu.sp - 1).toNat) (lo s.cpu.pc)).write (256 + (s.cpu.sp - 2).toNat) (s.cpu.p.toByte b) } := by
  have f := selectVector_frame (pushedPc s)
  show (push ((selectVector (pushedPc s)).2.cpu.p.toByte b) (selectVector (pushedPc s)).2).mem = _
  rw [push_mem (by rw [f.fault, pushedPc_fault]; exact hf), f.mem, f.cpu, pushedPc_mem hf, pushedPc_cpu]

theorem pushedAll_rest (b : Bool) (s : State) : RestUntouched s (pushedAll b s) :=
  ((pushedPc_rest s).trans (.of_untouched (selectVector_frame _).toUntouched)).trans ((push_rest _ _).trans (.setCpu _ _))

theorem takeException_cpu (b : Bool) (s : State) : ∃ pc, (takeException b s).cpu = { s.cpu with pc := pc, sp := s.cpu.sp - 3, p := { s.cpu.p with i := true } } := by
  rw [takeException_eq, loadPc_cpu, pushedAll_cpu]
  exact ⟨_, rfl⟩

theorem takeException_mem (b : Bool) {s : State} (hf : s.fault = none) :
    (takeException b s).mem = { s.mem with ram := ((s.mem.ram.write (256 + s.cpu.sp.toNat) (hi s.cpu.pc)).write
      (256 + (s.cpu.sp - 1).toNat) (lo s.cpu.pc)).write (256 + (s.cpu.sp - 2).toNat) (s.cpu.p.toByte b) } := by
  rw [takeException_eq, (loadPc_untouched _ _).mem, pushedAll_mem b hf]

theorem takeException_rest (b : Bool) (s : State) : RestUntouched s (takeException b s) :=
  (pushedAll_rest b s).trans (.of_untouched (loadPc_untouched _ _))

/-- A return from an exception: the flags and the program counter from the three bytes above the stack pointer. -/
theorem returnFromException_cpu {s : State} (hf : s.fault = none) :
    (returnFromException s).cpu = { s.cpu with
      p := Flags.ofByte (s.mem.ram.read (256 + (s.cpu.sp + 1).toNat)), sp := s.cpu.sp + 3,
      pc := word (s.mem.ram.read (256 + (s.cpu.sp + 3).toNat)) (s.mem.ram.read (256 + (s.cpu.sp + 2).toNat)) } := by
  let s0 := dummyStack (dummyPc s)
  have h0 : s0.cpu = s.cpu := by simp [s0]
  have m0 : s0.mem = s.mem := by simp [s0]
  have f0 : s0.fault = none := by simp [s0, hf]
  let s1 := (pull s0).2.setP (Flags.ofByte (pull s0).1)
  have h1 : s1.cpu = { s.cpu with p := Flags.ofByte (pull s0).1, sp := s.cpu.sp + 1 } := by simp [s1, State.setP, pull_cpu, h0]
  have m1 : s1.mem = s.mem := (pull_untouched s0).mem.trans m0
  have f1 : s1.fault = none := (pull_untouched s0).fault.trans f0
  have h2 := pull_cpu s1
  have m2 : (pull s1).2.mem = s.mem := (pull_untouched s1).mem.trans m1
  have f2 : (pull s1).2.fault = none := (pull_untouched s1).fault.trans f1
  show ((pull (pull s1).2).2.setPc (word (pull (pull s1).2).1 (pull s1).1)).cpu = _
  simp only [State.setPc, State.setCpu_cpu, pull_cpu, h1, pull_value f2, pull_value f1, pull_value f0, m2, m1, m0, h0, Cpu.mk.injEq, true_and, and_true]
  refine ⟨by bv_omega, ?_⟩
  rw [show s.cpu.sp + 1 + 1 = s.cpu.sp + 2 by bv_omega, show s.cpu.sp + 2 + 1 = s.cpu.sp + 3 by bv_omega]

theorem returnFromException_untouched (s : State) : Untouched s (returnFromException s) := by
  have h : Untouched s (dummyStack (dummyPc s)) := ((dummyRead_frame _ s).trans (dummyRead_frame _ _)).toUntouched
  exact h.trans ((pull_untouched _).trans ((State.setCpu_untouched _ _).trans ((pull_untouched _).trans ((pull_untouched _).trans (State.setCpu_untouched _ _)))))

/-! ### The effect of each template, whole -/

/-- A meaning that is `readInstr` has the effect of a read instruction. -/
theorem readInstr_effect {i : Instr} {o : Operand} {f g : Byte → Cpu → Cpu} {s : State} (he : exec i s = .next (readInstr f o s)) (h : ∀ m c, f m c = g m c) :
    ReadEffect i o g s := by
  have hfg : f = g := by funext m c; exact h m c
  subst hfg
  refine ⟨_, he, ?_, ?_, readInstr_untouched _ _ _⟩
  · show (readOperand o s).2.setCpu (f (readOperand o s).1 (readOperand o s).2.cpu) = _
    rw [(readOperand_frame o s).cpu]
  · intro v hv
    rw [readInstr_cpu]
    cases o with
    | imm w => simp only [State.finds] at hv; subst hv; rfl
    | mem m => rw [readOperand_plain hv.1 hv.2]

/-- A meaning that is `impliedInstr` has the effect of an implied instruction. -/
theorem impliedInstr_effect {i : Instr} {f g : Cpu → Cpu} {s : State} (he : exec i s = .next (impliedInstr f s)) (h : ∀ c, f c = g c) :
    ImpliedEffect i g s := by
  have hfg : f = g := by funext c; exact h c
  subst hfg
  refine ⟨_, he, ?_, impliedInstr_cpu f s, impliedInstr_untouched f s⟩
  show (dummyPc s).setCpu (f (dummyPc s).cpu) = _
  rw [dummyPc_cpu]; rfl

/-- A store at a place changes the byte there and no other. -/
theorem Buffers.storedAt_storeAt {m : Buffers} (h : m.wf = true) (p : Option Place) (v : Byte) : m.storedAt (m.storeAt p v) p v := by
  intro b off
  rw [Buffers.byte_storeAt h]

/-- A meaning that is `store` has the effect of a store instruction. -/
theorem store_effect {i : Instr} {m : MemMode} {v : Byte} {s : State} (he : exec i s = .next (store v m s)) : StoreEffect i m v s := by
  refine ⟨_, he, store_cpu v m s, fun hf => ⟨?_, store_frame hf v m, fun hw => ?_⟩⟩
  · show memWrite (storeAddress m s).1 v (storeAddress m s).2 = _
    rw [storeAddress_value hf]
  · rw [store_mem hf]
    unfold State.memAfterWrite
    rw [(storeAddress_frame m s).mem]
    exact Buffers.storedAt_storeAt hw _ _

theorem StoreFrame.setCpu {a : Word} {s t : State} (h : StoreFrame a s t) (c : Cpu) : StoreFrame a s (t.setCpu c) :=
  h.trans (.of_untouched a (State.setCpu_untouched c t))

/-- A meaning that is `rmwInstr` has the effect of a read-modify-write instruction. -/
theorem rmwInstr_effect {i : Instr} {m : MemMode} {f : Byte → Flags → Byte × Flags} {g : Byte → Cpu → Cpu} {new : Byte → Flags → Byte} {after : Byte → Cpu → Cpu}
    {s : State} (hf : s.fault = none) (hi : s.CartInv) (he : exec i s = .next (rmwInstr f g m s)) (hn : ∀ v p, (f v p).1 = new v p)
    (ha : ∀ v c, g (f v c.p).1 { c with p := (f v c.p).2 } = after v c) : RmwEffect i m new after s := by
  have fr := (storeAddress_frame m s).trans (memRead_frame (s.effective m) (storeAddress m s).2)
  have hu := State.mapped_of_banks fr.banks hi
  have fu := fr.fault.trans hf
  obtain ⟨w1, w2⟩ := memWrite_ok hu (s.effective m) (memRead (s.effective m) (storeAddress m s).2).1
  unfold RmwEffect
  rw [he, rmwInstr_eq hf f g m hi]
  dsimp only
  generalize ho : (memRead (s.effective m) (storeAddress m s).2).1 = old at *
  generalize hu' : (memRead (s.effective m) (storeAddress m s).2).2 = u at *
  obtain ⟨w3, -⟩ := memWrite_ok w2 (s.effective m) (f old s.cpu.p).1
  rw [hn] at w3 ⊢
  have ha' := ha old s.cpu
  rw [hn] at ha'
  rw [ha']
  have mw : (memWrite (s.effective m) old u).mem = s.mem.storeAt (u.atWrite.writePlace (s.effective m)) old := by
    rw [memWrite_mem fu]; unfold State.memAfterWrite; rw [fr.mem]
  have mt : (memWrite (s.effective m) (new old s.cpu.p) (memWrite (s.effective m) old u)).mem
      = (memWrite (s.effective m) old u).mem.storeAt ((memWrite (s.effective m) old u).atWrite.writePlace (s.effective m)) (new old s.cpu.p) := by
    rw [memWrite_mem (w1.trans fu)]; rfl
  refine ⟨_, rfl, rfl, ?_, ?_, ?_, ?_, ?_⟩
  · exact w3.trans (w1.trans fu)
  · exact StoreFrame.setCpu (((StoreFrame.of_untouched _ fr.toUntouched).trans (memWrite_frame _ _ _)).trans (memWrite_frame _ _ _)) _
  · intro hw
    refine ⟨(memWrite (s.effective m) old u).mem, ?_, ?_⟩
    · rw [mw]; exact Buffers.storedAt_storeAt hw _ _
    · show Buffers.storedAt _ (memWrite _ _ _).mem _ _
      rw [mt]; exact Buffers.storedAt_storeAt (by rw [mw]; exact Buffers.wf_storeAt hw _ _) _ _
  · intro hl
    rw [← ho, memRead_ram ((storeAddress_frame m s).fault.trans hf) hl]
    exact State.ramByte_congr (storeAddress_frame m s).mem _
  · intro hw hl c hc
    have hold : old = s.ramByte (s.effective m) := by
      rw [← ho, memRead_ram ((storeAddress_frame m s).fault.trans hf) hl]
      exact State.ramByte_congr (storeAddress_frame m s).mem _
    have pl : ∀ x : State, x.writePlace (s.effective m) = some (.ram, (s.effective m).toNat % 2048) := by
      intro x; unfold State.writePlace; rw [if_pos hl]
    show State.ramByte (State.setCpu _ (memWrite _ _ _)) c = _
    unfold State.ramByte
    show (memWrite _ _ _).mem.ram.read _ = _
    rw [mt, mw, pl, pl]
    have e1 : ∀ (b : Buffers) (o : Nat) (v : Byte), b.storeAt (some (.ram, o)) v = { b with ram := b.ram.write o v } := by intros; rfl
    rw [e1, e1]
    have hr : s.mem.ram.wf = true := Buffers.wf_get (b := .ram) hw
    dsimp only
    rw [Memory.read_write (Memory.wf_write hr _ _), Memory.read_write hr, hold]
    split <;> rfl

/-! ### Unstable stores -/

theorem storeUnstable_cpu (reg : Byte) (base : Word) (idx : Byte) (s : State) : (storeUnstable reg base idx s).cpu = s.cpu := by
  simp [storeUnstable, indexStore, State.drawn]

end Sys2Proof.Machine
end

