-- ==== Sys2Proof/Laws/Step.lean ====
section
/-! SUPPORT. What a whole instruction can do: a property kept by CPU accesses, register updates and exception entry is kept by every step. -/

namespace Sys2Proof.Machine

/-- A property of states that the building blocks of every instruction keep. -/
structure Keeps (P : State → Prop) : Prop where
  read : ∀ {s}, P s → ∀ a, P (memRead a s).2
  write : ∀ {s}, P s → ∀ a v, P (memWrite a v s)
  cpu : ∀ {s}, P s → ∀ c, P (s.setCpu c)
  drawn : ∀ {s}, P s → P s.drawn
  nmi : ∀ {s : State}, P s → P { s with int := { s.int with nmi := ⟨false, false⟩ } }

variable {P : State → Prop}

theorem Keeps.dummyRead (h : Keeps P) {s : State} (hs : P s) (a : Word) : P (dummyRead a s) := h.read hs a

theorem Keeps.push (h : Keeps P) {s : State} (hs : P s) (v : Byte) : P (push v s) := h.cpu (h.write hs _ v) _

theorem Keeps.pull (h : Keeps P) {s : State} (hs : P s) : P (pull s).2 := h.read (h.cpu hs _) _

theorem Keeps.zpPointer (h : Keeps P) {s : State} (hs : P s) (p : Byte) : P (zpPointer p s).2 := h.read (h.read hs _) _

theorem Keeps.indexRead (h : Keeps P) {s : State} (hs : P s) (base : Word) (r : Byte) : P (indexRead base r s).2 := by
  unfold Machine.indexRead
  dsimp only
  split
  · exact h.read hs _
  · exact hs

theorem Keeps.readAddress (h : Keeps P) {s : State} (hs : P s) (m : MemMode) : P (readAddress m s).2 := by
  cases m with
  | zp z => exact hs
  | zpx z => exact h.read hs _
  | zpy z => exact h.read hs _
  | abs a => exact hs
  | abx a => exact h.indexRead hs a _
  | aby a => exact h.indexRead hs a _
  | izx z => exact h.zpPointer (h.read hs _) _
  | izy z => exact h.indexRead (h.zpPointer hs z) _ _

theorem Keeps.storeAddress (h : Keeps P) {s : State} (hs : P s) (m : MemMode) : P (storeAddress m s).2 := by
  cases m with
  | zp z => exact hs
  | zpx z => exact h.read hs _
  | zpy z => exact h.read hs _
  | abs a => exact hs
  | abx a => exact h.read hs _
  | aby a => exact h.read hs _
  | izx z => exact h.zpPointer (h.read hs _) _
  | izy z => exact h.read (h.zpPointer hs z) _

theorem Keeps.readInstr (h : Keeps P) {s : State} (hs : P s) (f : Byte → Cpu → Cpu) (o : Operand) : P (readInstr f o s) := by
  cases o with
  | imm v => exact h.cpu hs _
  | mem m => exact h.cpu (h.read (h.readAddress hs m) _) _

theorem Keeps.store (h : Keeps P) {s : State} (hs : P s) (v : Byte) (m : MemMode) : P (store v m s) := h.write (h.storeAddress hs m) _ v

theorem Keeps.rmwInstr (h : Keeps P) {s : State} (hs : P s) (f : Byte → Flags → Byte × Flags) (g : Byte → Cpu → Cpu) (m : MemMode) :
    P (rmwInstr f g m s) := by
  have hw : ∀ old new, P (memWrite (Machine.storeAddress m s).1 new (memWrite (Machine.storeAddress m s).1 old
      (memRead (Machine.storeAddress m s).1 (Machine.storeAddress m s).2).2)) := fun old new => h.write (h.write (h.read (h.storeAddress hs m) _) _ _) _ _
  unfold Machine.rmwInstr
  dsimp only
  split
  · exact hw _ _
  · exact h.cpu (hw _ _) _

theorem Keeps.impliedInstr (h : Keeps P) {s : State} (hs : P s) (f : Cpu → Cpu) : P (impliedInstr f s) := h.cpu (h.read hs _) _

theorem Keeps.branchInstr (h : Keeps P) {s : State} (hs : P s) (b : Bool) (d : Byte) : P (branchInstr b d s) := by
  unfold Machine.branchInstr
  split
  · unfold takeBranch
    dsimp only
    split
    · exact h.cpu (h.read (h.read hs _) _) _
    · exact h.cpu (h.read hs _) _
  · exact hs

theorem Keeps.loadPc (h : Keeps P) {s : State} (hs : P s) (vec : Word) : P (loadPc vec s) := h.cpu (h.read (h.read hs _) _) _

theorem Keeps.selectVector (h : Keeps P) {s : State} (hs : P s) : P (selectVector s).2 := by
  unfold Machine.selectVector
  split
  · exact h.nmi hs
  · exact hs

theorem Keeps.takeException (h : Keeps P) {s : State} (hs : P s) (b : Bool) : P (takeException b s) :=
  h.loadPc (h.cpu (h.push (h.selectVector (h.push (h.push hs _) _)) _) _) _

theorem Keeps.interruptSequence (h : Keeps P) {s : State} (hs : P s) : P (interruptSequence s) := h.takeException (h.read (h.read hs _) _) false

theorem Keeps.returnFromException (h : Keeps P) {s : State} (hs : P s) : P (returnFromException s) :=
  h.cpu (h.pull (h.pull (h.cpu (h.pull (h.read (h.read hs _) _)) _))) _

theorem Keeps.storeUnstable (h : Keeps P) {s : State} (hs : P s) (reg : Byte) (base : Word) (idx : Byte) : P (storeUnstable reg base idx s) :=
  h.write (h.drawn (h.read hs _)) _ _

/-- Every instruction answers a next state, and what its building blocks keep, it keeps; for `JAM`, the fault record must be allowed too. -/
theorem Keeps.exec (h : Keeps P) (i : Instr) {s : State} (hs : P s) (hj : ∀ op, (i, op) ∈ jamForms → P (raiseJam op s)) :
    ∃ t, Machine.exec i s = .next t ∧ P t := by
  cases i with
  | jmpAbs a => exact ⟨_, rfl, h.cpu hs _⟩
  | jmpInd a => exact ⟨_, rfl, h.cpu (h.read (h.read hs _) _) _⟩
  | jsr a => exact ⟨_, rfl, h.cpu (h.read (h.push (h.push (h.read hs _) _) _) _) _⟩
  | rts => exact ⟨_, rfl, h.cpu (h.read (h.cpu (h.pull (h.pull (h.read (h.read hs _) _))) _) _) _⟩
  | pha => exact ⟨_, rfl, h.push (h.read hs _) _⟩
  | php => exact ⟨_, rfl, h.push (h.read hs _) _⟩
  | pla => exact ⟨_, rfl, h.cpu (h.pull (h.read (h.read hs _) _)) _⟩
  | plp => exact ⟨_, rfl, h.cpu (h.pull (h.read (h.read hs _) _)) _⟩
  | brk => exact ⟨_, rfl, h.takeException (h.cpu (h.read hs _) _) true⟩
  | rti => exact ⟨_, rfl, h.returnFromException hs⟩
  | lxaImm v => exact ⟨_, rfl, h.drawn (h.cpu hs _)⟩
  | xaaImm v => exact ⟨_, rfl, h.drawn (h.cpu hs _)⟩
  | shaIzy z => exact ⟨_, rfl, h.storeUnstable (h.zpPointer hs z) _ _ _⟩
  | shaAby a => exact ⟨_, rfl, h.storeUnstable hs _ _ _⟩
  | shxAby a => exact ⟨_, rfl, h.storeUnstable hs _ _ _⟩
  | shyAbx a => exact ⟨_, rfl, h.storeUnstable hs _ _ _⟩
  | tasAby a => exact ⟨_, rfl, h.storeUnstable (h.cpu hs _) _ _ _⟩
  | jam02 => exact ⟨_, rfl, hj 0x02 (by simp [jamForms])⟩
  | jam12 => exact ⟨_, rfl, hj 0x12 (by simp [jamForms])⟩
  | jam22 => exact ⟨_, rfl, hj 0x22 (by simp [jamForms])⟩
  | jam32 => exact ⟨_, rfl, hj 0x32 (by simp [jamForms])⟩
  | jam42 => exact ⟨_, rfl, hj 0x42 (by simp [jamForms])⟩
  | jam52 => exact ⟨_, rfl, hj 0x52 (by simp [jamForms])⟩
  | jam62 => exact ⟨_, rfl, hj 0x62 (by simp [jamForms])⟩
  | jam72 => exact ⟨_, rfl, hj 0x72 (by simp [jamForms])⟩
  | jam92 => exact ⟨_, rfl, hj 0x92 (by simp [jamForms])⟩
  | jamB2 => exact ⟨_, rfl, hj 0xB2 (by simp [jamForms])⟩
  | jamD2 => exact ⟨_, rfl, hj 0xD2 (by simp [jamForms])⟩
  | jamF2 => exact ⟨_, rfl, hj 0xF2 (by simp [jamForms])⟩
  | _ => first
    | exact ⟨_, rfl, h.readInstr hs _ _⟩
    | exact ⟨_, rfl, h.rmwInstr hs _ _ _⟩
    | exact ⟨_, rfl, h.store hs _ _⟩
    | exact ⟨_, rfl, h.impliedInstr hs _⟩
    | exact ⟨_, rfl, h.branchInstr hs _ _⟩

theorem Keeps.fetchByte (h : Keeps P) {s : State} (hs : P s) : P (fetchByte s).2 := h.cpu (h.read hs _) _

theorem Keeps.fetchOperands (h : Keeps P) (n : Nat) {s : State} (hs : P s) : P (fetchOperands n s).2.2 := by
  unfold Machine.fetchOperands
  split
  · exact hs
  · exact hs
  · exact h.fetchByte hs
  · exact h.fetchByte (h.fetchByte hs)

theorem Keeps.fetchInstr (h : Keeps P) {s : State} (hs : P s) : P (fetchInstr s).2 := h.fetchOperands _ (h.fetchByte hs)

theorem Keeps.retire (h : Keeps P) {s : State} (hs : P s) : P (retire s) := by
  unfold Machine.retire
  split
  · exact hs
  split
  · exact h.interruptSequence hs
  · exact hs

/-- The step of a machine without a fault: the instruction fetched, executed, and the interrupt check. -/
theorem step_eq {s : State} (hf : s.fault = none) : step s = afterExec (exec (fetchInstr s).1 (fetchInstr s).2) := by
  unfold step
  rw [hf]

/-- What the building blocks keep, every step keeps. -/
theorem Keeps.step (h : Keeps P) {s t : State} (hs : P s) (hj : ∀ op u, P u → P (raiseJam op u)) (e : Machine.step s = .next t) : P t := by
  cases hf : s.fault with
  | some r => unfold Machine.step at e; rw [hf] at e; cases e
  | none =>
    rw [step_eq hf] at e
    obtain ⟨u, hu, hp⟩ := h.exec (Machine.fetchInstr s).1 (h.fetchInstr hs) (fun op _ => hj op _ (h.fetchInstr hs))
    rw [hu] at e
    cases e
    exact h.retire hp

/-! ### From relations to properties -/

/-- A property that reads and writes carry over, and that does not look at the CPU, the interrupt unit and the draw counter. -/
theorem Keeps.mk' (hr : ∀ {s}, P s → ∀ a, P (memRead a s).2) (hw : ∀ {s}, P s → ∀ a v, P (memWrite a v s))
    (hc : ∀ {s : State}, P s → ∀ c u n, P { s with cpu := c, int := u, draws := n }) : Keeps P :=
  ⟨hr, hw, fun hs c => hc hs c _ _, fun hs => hc hs _ _ _, fun hs => hc hs _ _ _⟩

/-! ### The raster -/

theorem readPpuReg_ppu (a : Word) (s : State) : (readPpuReg a s).2.ppu = (s.ppu.regRead s.mem s.dots (muteDots s.cfg) (a.toNat % 8) s.cart).2.1 := rfl

theorem busAnswer_ppu (a : Word) (s : State) :
    (busAnswer a s).2.ppu = s.ppu ∨ (busAnswer a s).2.ppu = (s.ppu.regRead s.mem s.dots (muteDots s.cfg) (a.toNat % 8) s.cart).2.1 := by
  unfold busAnswer
  repeat' split
  · exact .inl rfl
  · exact .inr rfl
  · refine .inl ?_
    show (floatingBits 0x4015 s).2.ppu = s.ppu
    rcases floatingBits_state 0x4015 s with e | e
    · rw [e]
    · rw [e]; rfl
  · rcases floatingBits_state a s with e | e <;> simp [readPad, e]
  · rcases floatingBits_state a s with e | e <;> simp [readPad, e]
  · rcases openBus_state a s with e | e <;> rw [e] <;> exact .inl rfl
  · unfold readCartridge
    split
    · exact .inl rfl
    · rcases openBus_state a s with e | e <;> rw [e] <;> exact .inl rfl

theorem busWrite_ppu (a : Word) (v : Byte) (s : State) :
    (busWrite a v s).ppu = s.ppu ∨ (busWrite a v s).ppu = (s.ppu.regWrite s.mem s.dots (a.toNat % 8) v s.cart).ppu := by
  simp only [busWrite, busTarget]
  repeat' split
  all_goals first | exact .inl rfl | exact .inr rfl | skip
  unfold writeMapper
  split <;> exact .inl rfl

/-- A property of the PPU that dots and register accesses keep is kept by whole accesses. -/
structure PpuKeeps (Q : Ppu → Prop) : Prop where
  dot : ∀ mem now p c, Q p → Q (p.dotStep mem now c).1
  read : ∀ mem now k r p c, Q p → Q (p.regRead mem now k r c).2.1
  write : ∀ mem now r v p c, Q p → Q (p.regWrite mem now r v c).ppu

theorem PpuKeeps.runDots {Q : Ppu → Prop} (h : PpuKeeps Q) (mem : Buffers) (n : Nat) :
    ∀ (k : Nat) (p : Ppu) (c : Cart), Q p → Q (runDots mem n k p c).1 := by
  induction n with
  | zero => intro k p c hp; exact hp
  | succ n ih => intro k p c hp; exact ih _ _ _ (h.dot _ _ _ _ hp)

theorem PpuKeeps.parts {Q : Ppu → Prop} (h : PpuKeeps Q) : PartSteps fun s t => Q s.ppu → Q t.ppu where
  refl _ := id
  trans f g := g ∘ f
  cyc _ := id
  advance _ s := h.runDots _ _ _ s.ppu _
  apu _ := id
  access a s hs := by
    show Q (busAnswer a s).2.ppu
    rcases busAnswer_ppu a s with e | e <;> rw [e]
    · exact hs
    · exact h.read _ _ _ _ _ _ hs
  sample _ := id
  prologue _ := id
  dmc _ _ := id
  sprite n s hs := by
    unfold spriteDone
    split <;> exact hs

theorem PpuKeeps.access {Q : Ppu → Prop} (h : PpuKeeps Q) (a : Word) (v : Byte) (s : State) (hs : Q s.ppu) : Q (busWrite a v s).ppu := by
  rcases busWrite_ppu a v s with e | e <;> rw [e]
  · exact hs
  · exact h.write _ _ _ _ _ _ hs

/-- A property of the PPU that dots and register accesses keep is kept by every instruction. -/
theorem PpuKeeps.keeps {Q : Ppu → Prop} (h : PpuKeeps Q) : Keeps fun s => Q s.ppu :=
  .mk' (fun hs a => (h.parts.cycles fun v s hs => h.access _ v s hs).memRead a _ hs)
    (fun hs a v => h.parts.memWrite a v (fun s hs => h.access a v s hs) _ hs) (fun hs _ _ _ => hs)

theorem rasterValid_keeps : PpuKeeps Ppu.rasterValid where
  dot mem now _ c h := Ppu.dotStep_valid mem now h c
  read mem now k r p c h := by
    obtain ⟨-, -, -, -, -, -, h1, h2, -⟩ := p.regRead_frame mem now k r c
    unfold Ppu.rasterValid
    rw [h1, h2]; exact h
  write mem now r v p c h := by
    obtain ⟨h1, h2, -⟩ := p.regWrite_frame mem now r v c
    unfold Ppu.rasterValid
    rw [h1, h2]; exact h

/-- The sprite units and counts keep their ranges. -/
def Ppu.spritesOk (p : Ppu) : Prop := p.sprites.length = 8 ∧ p.sprCount ≤ 8 ∧ p.sprNextCount ≤ 8

theorem Ppu.Kept.spritesOk {p q : Ppu} (k : p.Kept q) (h : p.spritesOk) : q.spritesOk :=
  ⟨k.2.1.trans h.1, (k.2.2 h.2.1 h.2.2).1, (k.2.2 h.2.1 h.2.2).2⟩

theorem spritesOk_keeps : PpuKeeps Ppu.spritesOk where
  dot mem now p c h := (p.dotStep_kept mem now c).spritesOk h
  read mem now k r p c h := (p.regRead_kept mem now k r c).spritesOk h
  write mem now r v p c h := (p.regWrite_kept mem now r v c).1.spritesOk h

theorem memWf_keeps : PpuKeeps fun p => p.memWf = true where
  dot mem now _ c h := Ppu.dotStep_memWf mem now h c
  read mem now k r p c h := by
    obtain ⟨-, -, -, -, h1, h2, -, -, -⟩ := p.regRead_frame mem now k r c
    rw [Ppu.memWf_iff] at h ⊢
    rw [h1, h2]
    exact ⟨h.1, (p.regRead_kept mem now k r c).1 h.2⟩
  write mem now r v p c h := by
    obtain ⟨h1, h2⟩ := p.regWrite_kept mem now r v c
    rw [Ppu.memWf_iff] at h ⊢
    exact ⟨h2 h.1, h1.1 h.2⟩

/-! ### Memory, the cartridge, counters -/

theorem mem_keeps : Keeps fun s => s.mem.wf = true :=
  .mk' (fun {s} hs a => by rw [memRead_mem]; exact hs)
    (fun {s} hs a v => by
      cases hf : s.fault with
      | some r => unfold memWrite; rw [if_pos (by simp [hf])]; exact hs
      | none => rw [memWrite_mem hf]; exact Buffers.wf_storeAt hs _ _)
    (fun hs _ _ _ => hs)

theorem Keeps.and {Q : State → Prop} (h : Keeps P) (k : Keeps Q) : Keeps fun s => P s ∧ Q s :=
  ⟨fun hs a => ⟨h.read hs.1 a, k.read hs.2 a⟩, fun hs a v => ⟨h.write hs.1 a v, k.write hs.2 a v⟩,
   fun hs c => ⟨h.cpu hs.1 c, k.cpu hs.2 c⟩, fun hs => ⟨h.drawn hs.1, k.drawn hs.2⟩, fun hs => ⟨h.nmi hs.1, k.nmi hs.2⟩⟩

theorem cartInv_keeps : Keeps State.CartInv :=
  .mk' (fun {s} hs a => State.mapped_of_banks (memRead_frame a s).banks hs) (fun hs a v => (memWrite_ok hs a v).2) (fun hs _ _ _ => hs)

/-- On a legal cartridge nothing but `JAM` records a fault. -/
theorem noFault_keeps : Keeps fun s => s.CartInv ∧ s.fault = none :=
  .mk' (fun {s} hs a => ⟨cartInv_keeps.read hs.1 a, (memRead_fault a s).trans hs.2⟩)
    (fun hs a v => ⟨cartInv_keeps.write hs.1 a v, (memWrite_ok hs.1 a v).1.trans hs.2⟩) (fun hs _ _ _ => hs)

theorem Dma.request_wait (req : Bool) (d : Dma) (h : d.dmcWait ≤ 2) : (d.request req).dmcWait ≤ 2 := by
  unfold Dma.request
  split
  · exact Nat.le_refl 2
  · exact h

theorem busAnswer_counters (a : Word) (s : State) : (busAnswer a s).2.dma = s.dma ∧ (busAnswer a s).2.apu.seq.pendingDelay = s.apu.seq.pendingDelay := by
  unfold busAnswer
  repeat' split
  · exact ⟨rfl, rfl⟩
  · exact ⟨rfl, rfl⟩
  · refine ⟨?_, rfl⟩
    show (floatingBits 0x4015 s).2.dma = s.dma
    rcases floatingBits_state 0x4015 s with e | e
    · rw [e]
    · rw [e]; rfl
  · rcases floatingBits_state a s with e | e <;> simp [readPad, e]
  · rcases floatingBits_state a s with e | e <;> simp [readPad, e]
  · rcases openBus_state a s with e | e <;> rw [e] <;> exact ⟨rfl, rfl⟩
  · unfold readCartridge
    split
    · exact ⟨rfl, rfl⟩
    · rcases openBus_state a s with e | e <;> rw [e] <;> exact ⟨rfl, rfl⟩

theorem counter_parts : PartSteps fun s t => s.CounterInv → t.CounterInv where
  refl _ := id
  trans f g := g ∘ f
  cyc _ := id
  advance _ _ := id
  apu s hs := ⟨Dma.request_wait _ _ hs.1, (s.apu.apuStep_kept s.cfg s.clk.cyc).delay hs.2⟩
  access a s hs := by
    obtain ⟨h1, h2⟩ := busAnswer_counters a s
    exact ⟨by show (busAnswer a s).2.dma.dmcWait ≤ 2; rw [h1]; exact hs.1, by show (busAnswer a s).2.apu.seq.pendingDelay ≤ 4; rw [h2]; exact hs.2⟩
  sample _ := id
  prologue s hs := ⟨Nat.le_trans (Nat.sub_le _ _) hs.1, hs.2⟩
  dmc v s hs := ⟨hs.1, (s.apu.deliver_kept v).delay hs.2⟩
  sprite n s hs := by
    unfold spriteDone
    split <;> exact hs

theorem writeApuReg_counters (a : Word) (v : Byte) {s : State} (hs : s.CounterInv) : (writeApuReg a v s).CounterInv := by
  unfold writeApuReg
  generalize apuRegNumber a = r
  have h := Apu.regWrite_delay hs.2 s.clk.cyc r v
  dsimp only
  generalize s.apu.regWrite s.clk.cyc r v = w at *
  exact ⟨Dma.request_wait w.2 _ hs.1, h⟩

theorem busTarget_counters (a : Word) (v : Byte) (s : State) : State.CounterInv s → State.CounterInv (busTarget a v s) := by
  intro k
  unfold busTarget
  by_cases h1 : a.toNat < 0x2000
  · rw [if_pos h1]; exact ⟨k.1, k.2⟩
  rw [if_neg h1]
  by_cases h2 : a.toNat < 0x4000
  · rw [if_pos h2]; exact ⟨k.1, k.2⟩
  rw [if_neg h2]
  by_cases h3 : a.toNat = 0x4014
  · rw [if_pos h3]; exact ⟨k.1, k.2⟩
  rw [if_neg h3]
  by_cases h4 : a.toNat = 0x4016
  · rw [if_pos h4]; exact ⟨k.1, k.2⟩
  rw [if_neg h4]
  by_cases h5 : a.toNat ≤ 0x4017
  · rw [if_pos h5]; exact writeApuReg_counters a v k
  rw [if_neg h5]
  by_cases h6 : a.toNat < 0x4020
  · rw [if_pos h6]; exact k
  rw [if_neg h6]
  by_cases h7 : a.toNat < 0x8000
  · rw [if_pos h7]; exact ⟨k.1, k.2⟩
  rw [if_neg h7]
  unfold writeMapper
  split <;> exact ⟨k.1, k.2⟩

theorem busWrite_counters (a : Word) (v : Byte) (s : State) (hs : s.CounterInv) : (busWrite a v s).CounterInv :=
  busTarget_counters a v { s with dbus := v } ⟨hs.1, hs.2⟩

theorem counter_keeps : Keeps State.CounterInv :=
  .mk' (fun hs a => (counter_parts.cycles fun v s hs => busWrite_counters _ v s hs).memRead a _ hs)
    (fun hs a v => counter_parts.memWrite a v (fun s hs => busWrite_counters a v s hs) _ hs) (fun hs _ _ _ => hs)

end Sys2Proof.Machine
end

