-- ==== Sys2Proof/Laws/Clock.lean ====
section
/-! SUPPORT. Time: how many cycles an access takes, the master clock, and the catch-up of the picture processor. -/

namespace Sys2Proof.Machine

/-- `advance` adds its units to the master clock and lets every dot run that fits. -/
theorem advance_clk (u : Nat) (s : State) :
    (advance u s).clk = { s.clk with
      mclk := s.clk.mclk + u
      ppuClk := s.clk.ppuClk + 4 * dotsUntil (s.clk.mclk + u - s.cfg.ppuOffset.val) s.clk.ppuClk } := rfl

theorem busAnswer_clk (a : Word) (s : State) : (busAnswer a s).2.clk = s.clk := by
  unfold busAnswer
  repeat' split
  · rfl
  · rfl
  · show (floatingBits 0x4015 s).2.clk = s.clk
    rcases floatingBits_state 0x4015 s with e | e
    · rw [e]
    · rw [e]; rfl
  · show (floatingBits a s).2.clk = s.clk
    rcases floatingBits_state a s with e | e
    · rw [e]
    · rw [e]; rfl
  · show (floatingBits a s).2.clk = s.clk
    rcases floatingBits_state a s with e | e
    · rw [e]
    · rw [e]; rfl
  · rcases openBus_state a s with e | e
    · rw [e]
    · rw [e]; rfl
  · unfold readCartridge
    split
    · rfl
    · rcases openBus_state a s with e | e
      · rw [e]
      · rw [e]; rfl

theorem busRead_clk (a : Word) (s : State) : (busRead a s).2.clk = s.clk := busAnswer_clk a s

theorem busWrite_clk (a : Word) (v : Byte) (s : State) : (busWrite a v s).clk = s.clk := by
  have k : ∀ t : State, (busTarget a v t).clk = t.clk := by
    intro t
    unfold busTarget
    repeat' split
    all_goals first | rfl | skip
    unfold writeMapper
    split <;> rfl
  exact k _

/-- The clocks agree (R81 to R83). -/
def State.ClockOk (s : State) : Prop := s.clk.mclk = 12 * s.clk.cyc ∧ s.clk.ppuClk = 4 * ((s.clk.mclk - s.cfg.ppuOffset.val) / 4)

/-- A half-step keeps the picture processor caught up. -/
theorem advance_caught_up {u : Nat} {s : State} (h : s.clk.ppuClk = 4 * ((s.clk.mclk - s.cfg.ppuOffset.val) / 4)) :
    (advance u s).clk.ppuClk = 4 * (((advance u s).clk.mclk - (advance u s).cfg.ppuOffset.val) / 4) := by
  have e : (advance u s).cfg = s.cfg := rfl
  rw [advance_clk, e]
  unfold dotsUntil
  dsimp only
  omega

/-- A read cycle takes one bus cycle, twelve master-clock units, and leaves the picture processor caught up. -/
theorem readCycle_clk (a : Word) (s : State) :
    (readCycle a s).2.clk.cyc = s.clk.cyc + 1 ∧ (readCycle a s).2.clk.mclk = s.clk.mclk + 12
    ∧ (s.clk.ppuClk = 4 * ((s.clk.mclk - s.cfg.ppuOffset.val) / 4) →
        (readCycle a s).2.clk.ppuClk = 4 * (((readCycle a s).2.clk.mclk - (readCycle a s).2.cfg.ppuOffset.val) / 4)) := by
  have e : (readCycle a s).2 = advance 7 (sampleLines (busRead a (startTick .read s)).2) := rfl
  have c : (sampleLines (busRead a (startTick .read s)).2).clk
      = (advance 5 { s with clk := { s.clk with cyc := s.clk.cyc + 1 } }).clk := by
    rw [sampleLines_clk, busRead_clk]; rfl
  have g : (sampleLines (busRead a (startTick .read s)).2).cfg = s.cfg :=
    ((readFrame_parts.startTick .read s).trans ((readFrame_parts.access a _).trans (readFrame_parts.sample _))).cfg
  rw [e]
  refine ⟨?_, ?_, fun h => advance_caught_up ?_⟩
  · rw [advance_clk, c]; rfl
  · rw [advance_clk, c]; rfl
  · rw [c, g]; exact advance_caught_up (s := { s with clk := { s.clk with cyc := s.clk.cyc + 1 } }) h

/-- A write cycle that raises no fault takes as long. -/
theorem writeCycle_clk (a : Word) (v : Byte) (s : State) (hf : (writeCycle a v s).fault = none) :
    (writeCycle a v s).clk.cyc = s.clk.cyc + 1 ∧ (writeCycle a v s).clk.mclk = s.clk.mclk + 12
    ∧ (s.clk.ppuClk = 4 * ((s.clk.mclk - s.cfg.ppuOffset.val) / 4) →
        (writeCycle a v s).clk.ppuClk = 4 * (((writeCycle a v s).clk.mclk - (writeCycle a v s).cfg.ppuOffset.val) / 4)) := by
  have e : writeCycle a v s = advance 5 (sampleLines (busWrite a v (startTick .write s))) := by
    unfold writeCycle at hf ⊢
    dsimp only at hf ⊢
    split
    · rename_i h; rw [if_pos h] at hf; rw [hf] at h; cases h
    · rfl
  have c : (sampleLines (busWrite a v (startTick .write s))).clk
      = (advance 7 { s with clk := { s.clk with cyc := s.clk.cyc + 1 } }).clk := by
    rw [sampleLines_clk, busWrite_clk]; rfl
  have g : (sampleLines (busWrite a v (startTick .write s))).cfg = s.cfg :=
    ((busWrite_frame a v (startTick .write s)).cfg).trans (readFrame_parts.startTick .write s).cfg
  rw [e]
  refine ⟨?_, ?_, fun h => advance_caught_up ?_⟩
  · rw [advance_clk, c]; rfl
  · rw [advance_clk, c]; rfl
  · rw [c, g]; exact advance_caught_up (s := { s with clk := { s.clk with cyc := s.clk.cyc + 1 } }) h

theorem clock_cycles : CycleSteps fun s t => s.fault = none ∧ s.ClockOk → t.fault = none ∧ t.ClockOk where
  refl _ := id
  trans f g := g ∘ f
  read a s h := by
    obtain ⟨c1, c2, c3⟩ := readCycle_clk a s
    exact ⟨(readFrame_parts.readCycle a s).fault.trans h.1, by unfold State.ClockOk; exact ⟨by rw [c2, c1, h.2.1]; omega, c3 h.2.2⟩⟩
  oam v s h := by
    have f : (writeCycle 0x2004 v s).fault = none := (readFrame_parts.writeCycle 0x2004 v (oamWrite_frame v) s).fault.trans h.1
    obtain ⟨c1, c2, c3⟩ := writeCycle_clk 0x2004 v s f
    exact ⟨f, by unfold State.ClockOk; exact ⟨by rw [c2, c1, h.2.1]; omega, c3 h.2.2⟩⟩
  prologue _ := id
  dmc _ _ := id
  sprite n s h := by
    unfold spriteDone
    split <;> exact h

/-- The clocks agree, or the machine has stopped. -/
theorem clock_keeps : Keeps State.ClockInv :=
  .mk' (fun {s} hs a hf => by
      have f := (memRead_fault a s).symm.trans hf
      exact (clock_cycles.memRead a s ⟨f, hs f⟩).2)
    (fun {s} hs a v hf => by
      unfold memWrite at hf ⊢
      split
      · rename_i h; rw [if_pos h] at hf; rw [hf] at h; cases h
      · rename_i h
        rw [if_neg h] at hf
        have f : s.fault = none := by simpa using h
        obtain ⟨c1, c2, c3⟩ := writeCycle_clk a v s hf
        exact ⟨by rw [c2, c1, (hs f).1]; omega, c3 (hs f).2⟩)
    (fun hs _ _ _ => hs)

/-! ### Cycle counts of accesses -/

theorem busAnswer_quiet (a : Word) (s : State) : (busAnswer a s).2.dma = s.dma ∧ (busAnswer a s).2.apu.dmc.bytesRemaining = s.apu.dmc.bytesRemaining := by
  refine ⟨(busAnswer_counters a s).1, ?_⟩
  unfold busAnswer
  repeat' split
  · rfl
  · rfl
  · rfl
  · show (floatingBits a s).2.apu.dmc.bytesRemaining = _
    rcases floatingBits_state a s with e | e
    · rw [e]
    · rw [e]; rfl
  · show (floatingBits a s).2.apu.dmc.bytesRemaining = _
    rcases floatingBits_state a s with e | e
    · rw [e]
    · rw [e]; rfl
  · rcases openBus_state a s with e | e
    · rw [e]
    · rw [e]; rfl
  · unfold readCartridge
    split
    · rfl
    · rcases openBus_state a s with e | e
      · rw [e]
      · rw [e]; rfl

theorem quiet_parts : PartSteps fun s t => s.quiet → t.quiet where
  refl _ := id
  trans f g := g ∘ f
  cyc _ := id
  advance _ _ := id
  apu s h := by
    refine ⟨?_, (s.apu.apuStep_kept s.cfg s.clk.cyc).remaining h.2⟩
    show (s.dma.request (s.apu.apuStep s.cfg s.clk.cyc).2).haltReq = false
    rw [Apu.apuStep_request h.2]
    exact h.1
  access a s h := by
    obtain ⟨h1, h2⟩ := busAnswer_quiet a s
    exact ⟨by show (busAnswer a s).2.dma.haltReq = false; rw [h1]; exact h.1, by show (busAnswer a s).2.apu.dmc.bytesRemaining = 0; rw [h2]; exact h.2⟩
  sample _ := id
  prologue _ h := ⟨rfl, h.2⟩
  dmc v s h := ⟨h.1, (s.apu.deliver_kept v).remaining h.2⟩
  sprite n s h := by
    unfold spriteDone
    split <;> exact h

/-- A read without a pending transfer takes one cycle, and none is pending after it. -/
theorem memRead_quiet {s : State} (hf : s.fault = none) (h : s.quiet) (a : Word) : (memRead a s).2.clk.cyc = s.clk.cyc + 1 ∧ (memRead a s).2.quiet := by
  unfold memRead
  rw [if_neg (by simp [hf]), if_neg (by simp [h.1])]
  exact ⟨(readCycle_clk a s).1, quiet_parts.readCycle a s h⟩

/-- A write that raises no fault takes one cycle. -/
theorem memWrite_cyc {s : State} (hf : s.fault = none) (hi : s.CartInv) (a : Word) (v : Byte) : (memWrite a v s).clk.cyc = s.clk.cyc + 1 := by
  have h := (memWrite_ok hi a v).1.trans hf
  unfold memWrite at h ⊢
  have hs : ¬ s.fault.isSome = true := by simp [hf]
  rw [if_neg hs] at h ⊢
  exact (writeCycle_clk a v s h).1

/-- A write to work RAM requests no transfer. -/
theorem memWrite_quiet {s : State} (h : s.quiet) {a : Word} (ha : a.toNat < 0x2000) (v : Byte) : (memWrite a v s).quiet := by
  refine quiet_parts.memWrite a v (fun t ht => ?_) s h
  unfold busWrite busTarget
  rw [if_pos ha]
  exact ht

end Sys2Proof.Machine
end

