-- ==== Sys2Proof/Laws/PerInstr.lean ====
section
/-! SUPPORT. Per instruction: the encoding has the length its opcode announces (R131). -/

namespace Sys2Proof.Laws.EncodeLength

/-- The bytes of an instruction begin with an opcode whose length is their number (R131). -/
def Statement (i : Instr) : Prop := ∃ op rest, encode i = op :: rest ∧ opLength op = rest.length + 1

theorem brk : Statement (.brk) := ⟨_, _, rfl, rfl⟩
theorem oraIzx (z : Byte) : Statement (.oraIzx z) := ⟨_, _, rfl, rfl⟩
theorem jam02 : Statement (.jam02) := ⟨_, _, rfl, rfl⟩
theorem sloIzx (z : Byte) : Statement (.sloIzx z) := ⟨_, _, rfl, rfl⟩
theorem nopZp04 (z : Byte) : Statement (.nopZp04 z) := ⟨_, _, rfl, rfl⟩
theorem oraZp (z : Byte) : Statement (.oraZp z) := ⟨_, _, rfl, rfl⟩
theorem aslZp (z : Byte) : Statement (.aslZp z) := ⟨_, _, rfl, rfl⟩
theorem sloZp (z : Byte) : Statement (.sloZp z) := ⟨_, _, rfl, rfl⟩
theorem php : Statement (.php) := ⟨_, _, rfl, rfl⟩
theorem oraImm (v : Byte) : Statement (.oraImm v) := ⟨_, _, rfl, rfl⟩
theorem aslAcc : Statement (.aslAcc) := ⟨_, _, rfl, rfl⟩
theorem ancImm0B (v : Byte) : Statement (.ancImm0B v) := ⟨_, _, rfl, rfl⟩
theorem nopAbs0C (a : Word) : Statement (.nopAbs0C a) := ⟨_, _, rfl, rfl⟩
theorem oraAbs (a : Word) : Statement (.oraAbs a) := ⟨_, _, rfl, rfl⟩
theorem aslAbs (a : Word) : Statement (.aslAbs a) := ⟨_, _, rfl, rfl⟩
theorem sloAbs (a : Word) : Statement (.sloAbs a) := ⟨_, _, rfl, rfl⟩
theorem bpl (d : Byte) : Statement (.bpl d) := ⟨_, _, rfl, rfl⟩
theorem oraIzy (z : Byte) : Statement (.oraIzy z) := ⟨_, _, rfl, rfl⟩
theorem jam12 : Statement (.jam12) := ⟨_, _, rfl, rfl⟩
theorem sloIzy (z : Byte) : Statement (.sloIzy z) := ⟨_, _, rfl, rfl⟩
theorem nopZpx14 (z : Byte) : Statement (.nopZpx14 z) := ⟨_, _, rfl, rfl⟩
theorem oraZpx (z : Byte) : Statement (.oraZpx z) := ⟨_, _, rfl, rfl⟩
theorem aslZpx (z : Byte) : Statement (.aslZpx z) := ⟨_, _, rfl, rfl⟩
theorem sloZpx (z : Byte) : Statement (.sloZpx z) := ⟨_, _, rfl, rfl⟩
theorem clc : Statement (.clc) := ⟨_, _, rfl, rfl⟩
theorem oraAby (a : Word) : Statement (.oraAby a) := ⟨_, _, rfl, rfl⟩
theorem nopImp1A : Statement (.nopImp1A) := ⟨_, _, rfl, rfl⟩
theorem sloAby (a : Word) : Statement (.sloAby a) := ⟨_, _, rfl, rfl⟩
theorem nopAbx1C (a : Word) : Statement (.nopAbx1C a) := ⟨_, _, rfl, rfl⟩
theorem oraAbx (a : Word) : Statement (.oraAbx a) := ⟨_, _, rfl, rfl⟩
theorem aslAbx (a : Word) : Statement (.aslAbx a) := ⟨_, _, rfl, rfl⟩
theorem sloAbx (a : Word) : Statement (.sloAbx a) := ⟨_, _, rfl, rfl⟩
theorem jsr (a : Word) : Statement (.jsr a) := ⟨_, _, rfl, rfl⟩
theorem andIzx (z : Byte) : Statement (.andIzx z) := ⟨_, _, rfl, rfl⟩
theorem jam22 : Statement (.jam22) := ⟨_, _, rfl, rfl⟩
theorem rlaIzx (z : Byte) : Statement (.rlaIzx z) := ⟨_, _, rfl, rfl⟩
theorem bitZp (z : Byte) : Statement (.bitZp z) := ⟨_, _, rfl, rfl⟩
theorem andZp (z : Byte) : Statement (.andZp z) := ⟨_, _, rfl, rfl⟩
theorem rolZp (z : Byte) : Statement (.rolZp z) := ⟨_, _, rfl, rfl⟩
theorem rlaZp (z : Byte) : Statement (.rlaZp z) := ⟨_, _, rfl, rfl⟩
theorem plp : Statement (.plp) := ⟨_, _, rfl, rfl⟩
theorem andImm (v : Byte) : Statement (.andImm v) := ⟨_, _, rfl, rfl⟩
theorem rolAcc : Statement (.rolAcc) := ⟨_, _, rfl, rfl⟩
theorem ancImm2B (v : Byte) : Statement (.ancImm2B v) := ⟨_, _, rfl, rfl⟩
theorem bitAbs (a : Word) : Statement (.bitAbs a) := ⟨_, _, rfl, rfl⟩
theorem andAbs (a : Word) : Statement (.andAbs a) := ⟨_, _, rfl, rfl⟩
theorem rolAbs (a : Word) : Statement (.rolAbs a) := ⟨_, _, rfl, rfl⟩
theorem rlaAbs (a : Word) : Statement (.rlaAbs a) := ⟨_, _, rfl, rfl⟩
theorem bmi (d : Byte) : Statement (.bmi d) := ⟨_, _, rfl, rfl⟩
theorem andIzy (z : Byte) : Statement (.andIzy z) := ⟨_, _, rfl, rfl⟩
theorem jam32 : Statement (.jam32) := ⟨_, _, rfl, rfl⟩
theorem rlaIzy (z : Byte) : Statement (.rlaIzy z) := ⟨_, _, rfl, rfl⟩
theorem nopZpx34 (z : Byte) : Statement (.nopZpx34 z) := ⟨_, _, rfl, rfl⟩
theorem andZpx (z : Byte) : Statement (.andZpx z) := ⟨_, _, rfl, rfl⟩
theorem rolZpx (z : Byte) : Statement (.rolZpx z) := ⟨_, _, rfl, rfl⟩
theorem rlaZpx (z : Byte) : Statement (.rlaZpx z) := ⟨_, _, rfl, rfl⟩
theorem sec : Statement (.sec) := ⟨_, _, rfl, rfl⟩
theorem andAby (a : Word) : Statement (.andAby a) := ⟨_, _, rfl, rfl⟩
theorem nopImp3A : Statement (.nopImp3A) := ⟨_, _, rfl, rfl⟩
theorem rlaAby (a : Word) : Statement (.rlaAby a) := ⟨_, _, rfl, rfl⟩
theorem nopAbx3C (a : Word) : Statement (.nopAbx3C a) := ⟨_, _, rfl, rfl⟩
theorem andAbx (a : Word) : Statement (.andAbx a) := ⟨_, _, rfl, rfl⟩
theorem rolAbx (a : Word) : Statement (.rolAbx a) := ⟨_, _, rfl, rfl⟩
theorem rlaAbx (a : Word) : Statement (.rlaAbx a) := ⟨_, _, rfl, rfl⟩
theorem rti : Statement (.rti) := ⟨_, _, rfl, rfl⟩
theorem eorIzx (z : Byte) : Statement (.eorIzx z) := ⟨_, _, rfl, rfl⟩
theorem jam42 : Statement (.jam42) := ⟨_, _, rfl, rfl⟩
theorem sreIzx (z : Byte) : Statement (.sreIzx z) := ⟨_, _, rfl, rfl⟩
theorem nopZp44 (z : Byte) : Statement (.nopZp44 z) := ⟨_, _, rfl, rfl⟩
theorem eorZp (z : Byte) : Statement (.eorZp z) := ⟨_, _, rfl, rfl⟩
theorem lsrZp (z : Byte) : Statement (.lsrZp z) := ⟨_, _, rfl, rfl⟩
theorem sreZp (z : Byte) : Statement (.sreZp z) := ⟨_, _, rfl, rfl⟩
theorem pha : Statement (.pha) := ⟨_, _, rfl, rfl⟩
theorem eorImm (v : Byte) : Statement (.eorImm v) := ⟨_, _, rfl, rfl⟩
theorem lsrAcc : Statement (.lsrAcc) := ⟨_, _, rfl, rfl⟩
theorem alrImm (v : Byte) : Statement (.alrImm v) := ⟨_, _, rfl, rfl⟩
theorem jmpAbs (a : Word) : Statement (.jmpAbs a) := ⟨_, _, rfl, rfl⟩
theorem eorAbs (a : Word) : Statement (.eorAbs a) := ⟨_, _, rfl, rfl⟩
theorem lsrAbs (a : Word) : Statement (.lsrAbs a) := ⟨_, _, rfl, rfl⟩
theorem sreAbs (a : Word) : Statement (.sreAbs a) := ⟨_, _, rfl, rfl⟩
theorem bvc (d : Byte) : Statement (.bvc d) := ⟨_, _, rfl, rfl⟩
theorem eorIzy (z : Byte) : Statement (.eorIzy z) := ⟨_, _, rfl, rfl⟩
theorem jam52 : Statement (.jam52) := ⟨_, _, rfl, rfl⟩
theorem sreIzy (z : Byte) : Statement (.sreIzy z) := ⟨_, _, rfl, rfl⟩
theorem nopZpx54 (z : Byte) : Statement (.nopZpx54 z) := ⟨_, _, rfl, rfl⟩
theorem eorZpx (z : Byte) : Statement (.eorZpx z) := ⟨_, _, rfl, rfl⟩
theorem lsrZpx (z : Byte) : Statement (.lsrZpx z) := ⟨_, _, rfl, rfl⟩
theorem sreZpx (z : Byte) : Statement (.sreZpx z) := ⟨_, _, rfl, rfl⟩
theorem cli : Statement (.cli) := ⟨_, _, rfl, rfl⟩
theorem eorAby (a : Word) : Statement (.eorAby a) := ⟨_, _, rfl, rfl⟩
theorem nopImp5A : Statement (.nopImp5A) := ⟨_, _, rfl, rfl⟩
theorem sreAby (a : Word) : Statement (.sreAby a) := ⟨_, _, rfl, rfl⟩
theorem nopAbx5C (a : Word) : Statement (.nopAbx5C a) := ⟨_, _, rfl, rfl⟩
theorem eorAbx (a : Word) : Statement (.eorAbx a) := ⟨_, _, rfl, rfl⟩
theorem lsrAbx (a : Word) : Statement (.lsrAbx a) := ⟨_, _, rfl, rfl⟩
theorem sreAbx (a : Word) : Statement (.sreAbx a) := ⟨_, _, rfl, rfl⟩
theorem rts : Statement (.rts) := ⟨_, _, rfl, rfl⟩
theorem adcIzx (z : Byte) : Statement (.adcIzx z) := ⟨_, _, rfl, rfl⟩
theorem jam62 : Statement (.jam62) := ⟨_, _, rfl, rfl⟩
theorem rraIzx (z : Byte) : Statement (.rraIzx z) := ⟨_, _, rfl, rfl⟩
theorem nopZp64 (z : Byte) : Statement (.nopZp64 z) := ⟨_, _, rfl, rfl⟩
theorem adcZp (z : Byte) : Statement (.adcZp z) := ⟨_, _, rfl, rfl⟩
theorem rorZp (z : Byte) : Statement (.rorZp z) := ⟨_, _, rfl, rfl⟩
theorem rraZp (z : Byte) : Statement (.rraZp z) := ⟨_, _, rfl, rfl⟩
theorem pla : Statement (.pla) := ⟨_, _, rfl, rfl⟩
theorem adcImm (v : Byte) : Statement (.adcImm v) := ⟨_, _, rfl, rfl⟩
theorem rorAcc : Statement (.rorAcc) := ⟨_, _, rfl, rfl⟩
theorem arrImm (v : Byte) : Statement (.arrImm v) := ⟨_, _, rfl, rfl⟩
theorem jmpInd (a : Word) : Statement (.jmpInd a) := ⟨_, _, rfl, rfl⟩
theorem adcAbs (a : Word) : Statement (.adcAbs a) := ⟨_, _, rfl, rfl⟩
theorem rorAbs (a : Word) : Statement (.rorAbs a) := ⟨_, _, rfl, rfl⟩
theorem rraAbs (a : Word) : Statement (.rraAbs a) := ⟨_, _, rfl, rfl⟩
theorem bvs (d : Byte) : Statement (.bvs d) := ⟨_, _, rfl, rfl⟩
theorem adcIzy (z : Byte) : Statement (.adcIzy z) := ⟨_, _, rfl, rfl⟩
theorem jam72 : Statement (.jam72) := ⟨_, _, rfl, rfl⟩
theorem rraIzy (z : Byte) : Statement (.rraIzy z) := ⟨_, _, rfl, rfl⟩
theorem nopZpx74 (z : Byte) : Statement (.nopZpx74 z) := ⟨_, _, rfl, rfl⟩
theorem adcZpx (z : Byte) : Statement (.adcZpx z) := ⟨_, _, rfl, rfl⟩
theorem rorZpx (z : Byte) : Statement (.rorZpx z) := ⟨_, _, rfl, rfl⟩
theorem rraZpx (z : Byte) : Statement (.rraZpx z) := ⟨_, _, rfl, rfl⟩
theorem sei : Statement (.sei) := ⟨_, _, rfl, rfl⟩
theorem adcAby (a : Word) : Statement (.adcAby a) := ⟨_, _, rfl, rfl⟩
theorem nopImp7A : Statement (.nopImp7A) := ⟨_, _, rfl, rfl⟩
theorem rraAby (a : Word) : Statement (.rraAby a) := ⟨_, _, rfl, rfl⟩
theorem nopAbx7C (a : Word) : Statement (.nopAbx7C a) := ⟨_, _, rfl, rfl⟩
theorem adcAbx (a : Word) : Statement (.adcAbx a) := ⟨_, _, rfl, rfl⟩
theorem rorAbx (a : Word) : Statement (.rorAbx a) := ⟨_, _, rfl, rfl⟩
theorem rraAbx (a : Word) : Statement (.rraAbx a) := ⟨_, _, rfl, rfl⟩
theorem nopImm80 (v : Byte) : Statement (.nopImm80 v) := ⟨_, _, rfl, rfl⟩
theorem staIzx (z : Byte) : Statement (.staIzx z) := ⟨_, _, rfl, rfl⟩
theorem nopImm82 (v : Byte) : Statement (.nopImm82 v) := ⟨_, _, rfl, rfl⟩
theorem saxIzx (z : Byte) : Statement (.saxIzx z) := ⟨_, _, rfl, rfl⟩
theorem styZp (z : Byte) : Statement (.styZp z) := ⟨_, _, rfl, rfl⟩
theorem staZp (z : Byte) : Statement (.staZp z) := ⟨_, _, rfl, rfl⟩
theorem stxZp (z : Byte) : Statement (.stxZp z) := ⟨_, _, rfl, rfl⟩
theorem saxZp (z : Byte) : Statement (.saxZp z) := ⟨_, _, rfl, rfl⟩
theorem dey : Statement (.dey) := ⟨_, _, rfl, rfl⟩
theorem nopImm89 (v : Byte) : Statement (.nopImm89 v) := ⟨_, _, rfl, rfl⟩
theorem txa : Statement (.txa) := ⟨_, _, rfl, rfl⟩
theorem xaaImm (v : Byte) : Statement (.xaaImm v) := ⟨_, _, rfl, rfl⟩
theorem styAbs (a : Word) : Statement (.styAbs a) := ⟨_, _, rfl, rfl⟩
theorem staAbs (a : Word) : Statement (.staAbs a) := ⟨_, _, rfl, rfl⟩
theorem stxAbs (a : Word) : Statement (.stxAbs a) := ⟨_, _, rfl, rfl⟩
theorem saxAbs (a : Word) : Statement (.saxAbs a) := ⟨_, _, rfl, rfl⟩
theorem bcc (d : Byte) : Statement (.bcc d) := ⟨_, _, rfl, rfl⟩
theorem staIzy (z : Byte) : Statement (.staIzy z) := ⟨_, _, rfl, rfl⟩
theorem jam92 : Statement (.jam92) := ⟨_, _, rfl, rfl⟩
theorem shaIzy (z : Byte) : Statement (.shaIzy z) := ⟨_, _, rfl, rfl⟩
theorem styZpx (z : Byte) : Statement (.styZpx z) := ⟨_, _, rfl, rfl⟩
theorem staZpx (z : Byte) : Statement (.staZpx z) := ⟨_, _, rfl, rfl⟩
theorem stxZpy (z : Byte) : Statement (.stxZpy z) := ⟨_, _, rfl, rfl⟩
theorem saxZpy (z : Byte) : Statement (.saxZpy z) := ⟨_, _, rfl, rfl⟩
theorem tya : Statement (.tya) := ⟨_, _, rfl, rfl⟩
theorem staAby (a : Word) : Statement (.staAby a) := ⟨_, _, rfl, rfl⟩
theorem txs : Statement (.txs) := ⟨_, _, rfl, rfl⟩
theorem tasAby (a : Word) : Statement (.tasAby a) := ⟨_, _, rfl, rfl⟩
theorem shyAbx (a : Word) : Statement (.shyAbx a) := ⟨_, _, rfl, rfl⟩
theorem staAbx (a : Word) : Statement (.staAbx a) := ⟨_, _, rfl, rfl⟩
theorem shxAby (a : Word) : Statement (.shxAby a) := ⟨_, _, rfl, rfl⟩
theorem shaAby (a : Word) : Statement (.shaAby a) := ⟨_, _, rfl, rfl⟩
theorem ldyImm (v : Byte) : Statement (.ldyImm v) := ⟨_, _, rfl, rfl⟩
theorem ldaIzx (z : Byte) : Statement (.ldaIzx z) := ⟨_, _, rfl, rfl⟩
theorem ldxImm (v : Byte) : Statement (.ldxImm v) := ⟨_, _, rfl, rfl⟩
theorem laxIzx (z : Byte) : Statement (.laxIzx z) := ⟨_, _, rfl, rfl⟩
theorem ldyZp (z : Byte) : Statement (.ldyZp z) := ⟨_, _, rfl, rfl⟩
theorem ldaZp (z : Byte) : Statement (.ldaZp z) := ⟨_, _, rfl, rfl⟩
theorem ldxZp (z : Byte) : Statement (.ldxZp z) := ⟨_, _, rfl, rfl⟩
theorem laxZp (z : Byte) : Statement (.laxZp z) := ⟨_, _, rfl, rfl⟩
theorem tay : Statement (.tay) := ⟨_, _, rfl, rfl⟩
theorem ldaImm (v : Byte) : Statement (.ldaImm v) := ⟨_, _, rfl, rfl⟩
theorem tax : Statement (.tax) := ⟨_, _, rfl, rfl⟩
theorem lxaImm (v : Byte) : Statement (.lxaImm v) := ⟨_, _, rfl, rfl⟩
theorem ldyAbs (a : Word) : Statement (.ldyAbs a) := ⟨_, _, rfl, rfl⟩
theorem ldaAbs (a : Word) : Statement (.ldaAbs a) := ⟨_, _, rfl, rfl⟩
theorem ldxAbs (a : Word) : Statement (.ldxAbs a) := ⟨_, _, rfl, rfl⟩
theorem laxAbs (a : Word) : Statement (.laxAbs a) := ⟨_, _, rfl, rfl⟩
theorem bcs (d : Byte) : Statement (.bcs d) := ⟨_, _, rfl, rfl⟩
theorem ldaIzy (z : Byte) : Statement (.ldaIzy z) := ⟨_, _, rfl, rfl⟩
theorem jamB2 : Statement (.jamB2) := ⟨_, _, rfl, rfl⟩
theorem laxIzy (z : Byte) : Statement (.laxIzy z) := ⟨_, _, rfl, rfl⟩
theorem ldyZpx (z : Byte) : Statement (.ldyZpx z) := ⟨_, _, rfl, rfl⟩
theorem ldaZpx (z : Byte) : Statement (.ldaZpx z) := ⟨_, _, rfl, rfl⟩
theorem ldxZpy (z : Byte) : Statement (.ldxZpy z) := ⟨_, _, rfl, rfl⟩
theorem laxZpy (z : Byte) : Statement (.laxZpy z) := ⟨_, _, rfl, rfl⟩
theorem clv : Statement (.clv) := ⟨_, _, rfl, rfl⟩
theorem ldaAby (a : Word) : Statement (.ldaAby a) := ⟨_, _, rfl, rfl⟩
theorem tsx : Statement (.tsx) := ⟨_, _, rfl, rfl⟩
theorem lasAby (a : Word) : Statement (.lasAby a) := ⟨_, _, rfl, rfl⟩
theorem ldyAbx (a : Word) : Statement (.ldyAbx a) := ⟨_, _, rfl, rfl⟩
theorem ldaAbx (a : Word) : Statement (.ldaAbx a) := ⟨_, _, rfl, rfl⟩
theorem ldxAby (a : Word) : Statement (.ldxAby a) := ⟨_, _, rfl, rfl⟩
theorem laxAby (a : Word) : Statement (.laxAby a) := ⟨_, _, rfl, rfl⟩
theorem cpyImm (v : Byte) : Statement (.cpyImm v) := ⟨_, _, rfl, rfl⟩
theorem cmpIzx (z : Byte) : Statement (.cmpIzx z) := ⟨_, _, rfl, rfl⟩
theorem nopImmC2 (v : Byte) : Statement (.nopImmC2 v) := ⟨_, _, rfl, rfl⟩
theorem dcpIzx (z : Byte) : Statement (.dcpIzx z) := ⟨_, _, rfl, rfl⟩
theorem cpyZp (z : Byte) : Statement (.cpyZp z) := ⟨_, _, rfl, rfl⟩
theorem cmpZp (z : Byte) : Statement (.cmpZp z) := ⟨_, _, rfl, rfl⟩
theorem decZp (z : Byte) : Statement (.decZp z) := ⟨_, _, rfl, rfl⟩
theorem dcpZp (z : Byte) : Statement (.dcpZp z) := ⟨_, _, rfl, rfl⟩
theorem iny : Statement (.iny) := ⟨_, _, rfl, rfl⟩
theorem cmpImm (v : Byte) : Statement (.cmpImm v) := ⟨_, _, rfl, rfl⟩
theorem dex : Statement (.dex) := ⟨_, _, rfl, rfl⟩
theorem axsImm (v : Byte) : Statement (.axsImm v) := ⟨_, _, rfl, rfl⟩
theorem cpyAbs (a : Word) : Statement (.cpyAbs a) := ⟨_, _, rfl, rfl⟩
theorem cmpAbs (a : Word) : Statement (.cmpAbs a) := ⟨_, _, rfl, rfl⟩
theorem decAbs (a : Word) : Statement (.decAbs a) := ⟨_, _, rfl, rfl⟩
theorem dcpAbs (a : Word) : Statement (.dcpAbs a) := ⟨_, _, rfl, rfl⟩
theorem bne (d : Byte) : Statement (.bne d) := ⟨_, _, rfl, rfl⟩
theorem cmpIzy (z : Byte) : Statement (.cmpIzy z) := ⟨_, _, rfl, rfl⟩
theorem jamD2 : Statement (.jamD2) := ⟨_, _, rfl, rfl⟩
theorem dcpIzy (z : Byte) : Statement (.dcpIzy z) := ⟨_, _, rfl, rfl⟩
theorem nopZpxD4 (z : Byte) : Statement (.nopZpxD4 z) := ⟨_, _, rfl, rfl⟩
theorem cmpZpx (z : Byte) : Statement (.cmpZpx z) := ⟨_, _, rfl, rfl⟩
theorem decZpx (z : Byte) : Statement (.decZpx z) := ⟨_, _, rfl, rfl⟩
theorem dcpZpx (z : Byte) : Statement (.dcpZpx z) := ⟨_, _, rfl, rfl⟩
theorem cld : Statement (.cld) := ⟨_, _, rfl, rfl⟩
theorem cmpAby (a : Word) : Statement (.cmpAby a) := ⟨_, _, rfl, rfl⟩
theorem nopImpDA : Statement (.nopImpDA) := ⟨_, _, rfl, rfl⟩
theorem dcpAby (a : Word) : Statement (.dcpAby a) := ⟨_, _, rfl, rfl⟩
theorem nopAbxDC (a : Word) : Statement (.nopAbxDC a) := ⟨_, _, rfl, rfl⟩
theorem cmpAbx (a : Word) : Statement (.cmpAbx a) := ⟨_, _, rfl, rfl⟩
theorem decAbx (a : Word) : Statement (.decAbx a) := ⟨_, _, rfl, rfl⟩
theorem dcpAbx (a : Word) : Statement (.dcpAbx a) := ⟨_, _, rfl, rfl⟩
theorem cpxImm (v : Byte) : Statement (.cpxImm v) := ⟨_, _, rfl, rfl⟩
theorem sbcIzx (z : Byte) : Statement (.sbcIzx z) := ⟨_, _, rfl, rfl⟩
theorem nopImmE2 (v : Byte) : Statement (.nopImmE2 v) := ⟨_, _, rfl, rfl⟩
theorem isbIzx (z : Byte) : Statement (.isbIzx z) := ⟨_, _, rfl, rfl⟩
theorem cpxZp (z : Byte) : Statement (.cpxZp z) := ⟨_, _, rfl, rfl⟩
theorem sbcZp (z : Byte) : Statement (.sbcZp z) := ⟨_, _, rfl, rfl⟩
theorem incZp (z : Byte) : Statement (.incZp z) := ⟨_, _, rfl, rfl⟩
theorem isbZp (z : Byte) : Statement (.isbZp z) := ⟨_, _, rfl, rfl⟩
theorem inx : Statement (.inx) := ⟨_, _, rfl, rfl⟩
theorem sbcImm (v : Byte) : Statement (.sbcImm v) := ⟨_, _, rfl, rfl⟩
theorem nop : Statement (.nop) := ⟨_, _, rfl, rfl⟩
theorem sbcImmEB (v : Byte) : Statement (.sbcImmEB v) := ⟨_, _, rfl, rfl⟩
theorem cpxAbs (a : Word) : Statement (.cpxAbs a) := ⟨_, _, rfl, rfl⟩
theorem sbcAbs (a : Word) : Statement (.sbcAbs a) := ⟨_, _, rfl, rfl⟩
theorem incAbs (a : Word) : Statement (.incAbs a) := ⟨_, _, rfl, rfl⟩
theorem isbAbs (a : Word) : Statement (.isbAbs a) := ⟨_, _, rfl, rfl⟩
theorem beq (d : Byte) : Statement (.beq d) := ⟨_, _, rfl, rfl⟩
theorem sbcIzy (z : Byte) : Statement (.sbcIzy z) := ⟨_, _, rfl, rfl⟩
theorem jamF2 : Statement (.jamF2) := ⟨_, _, rfl, rfl⟩
theorem isbIzy (z : Byte) : Statement (.isbIzy z) := ⟨_, _, rfl, rfl⟩
theorem nopZpxF4 (z : Byte) : Statement (.nopZpxF4 z) := ⟨_, _, rfl, rfl⟩
theorem sbcZpx (z : Byte) : Statement (.sbcZpx z) := ⟨_, _, rfl, rfl⟩
theorem incZpx (z : Byte) : Statement (.incZpx z) := ⟨_, _, rfl, rfl⟩
theorem isbZpx (z : Byte) : Statement (.isbZpx z) := ⟨_, _, rfl, rfl⟩
theorem sed : Statement (.sed) := ⟨_, _, rfl, rfl⟩
theorem sbcAby (a : Word) : Statement (.sbcAby a) := ⟨_, _, rfl, rfl⟩
theorem nopImpFA : Statement (.nopImpFA) := ⟨_, _, rfl, rfl⟩
theorem isbAby (a : Word) : Statement (.isbAby a) := ⟨_, _, rfl, rfl⟩
theorem nopAbxFC (a : Word) : Statement (.nopAbxFC a) := ⟨_, _, rfl, rfl⟩
theorem sbcAbx (a : Word) : Statement (.sbcAbx a) := ⟨_, _, rfl, rfl⟩
theorem incAbx (a : Word) : Statement (.incAbx a) := ⟨_, _, rfl, rfl⟩
theorem isbAbx (a : Word) : Statement (.isbAbx a) := ⟨_, _, rfl, rfl⟩

end Sys2Proof.Laws.EncodeLength
end

