-- ==== Sys2Proof/Laws/Reset.lean ====
section
/-! SUPPORT. The written-out reset state is what the power-on procedure computes. -/

namespace Sys2Proof.Machine

/-- `State.reset` is the result of power-on (R53, R560, R561) with the blank cartridge, whose tables `Remap` computes (R527, R530). -/
theorem reset_is_powerOn :
    powerOn Config.suggested Launch.blank { Cart.blank with cpuSpace := Space.unmapped 64, ppuSpace := Space.unmapped 16 } Buffers.blank
      = some State.reset := by
  decide +kernel

/-- The first instruction after reset is fetched from the target of the reset vector, in a machine without a fault and without a pending transfer. -/
theorem reset_ready : State.reset.fault = none ∧ State.reset.dma.haltReq = false := by decide

end Sys2Proof.Machine
end

