-- ==== Sys2Proof/Tests/Slice0.lean ====
section
/-! SUPPORT. The model's own tests: well-formedness, decoding, one step each for the vectors of spec/95_test_vectors.md, and a witness for every statement that has hypotheses. -/

namespace Sys2Proof.Tests

open Sys2Proof Sys2Proof.Machine

/-! ### Well-formedness: ill-formed terms are refused -/

/-- The suggested launch parameters are well formed. -/
theorem test_wf_suggested : Config.suggested.wf = true := by decide +kernel

/-- A sample rate of zero is refused (R474). -/
theorem test_wf_sampleRate : Config.wf { Config.suggested with sampleRateHz := 0 } = false := by decide +kernel

/-- A filter coefficient of 0 is refused (R472). -/
theorem test_wf_coeffZero : Config.wf { Config.suggested with dcFilterCoeff := 0 } = false := by decide +kernel

/-- A filter coefficient of 1 is refused (R472). -/
theorem test_wf_coeffOne : Config.wf { Config.suggested with dcFilterCoeff := 1 } = false := by decide +kernel

/-- An image whose magic number is wrong, one without PRG ROM, one with an unsupported mapper number and one too short are refused (R528, R529, R342). -/
theorem test_wf_images :
    [[0x4E, 0x45, 0x53, 0x1B, 1, 0, 0, 0, 0, 0], [0x4E, 0x45, 0x53, 0x1A, 0, 1, 0, 0, 0, 0], [0x4E, 0x45, 0x53, 0x1A, 1, 0, 0x50, 0, 0, 0],
      [0x4E, 0x45, 0x53, 0x1A, 2, 0, 0, 0, 0, 0]].all (fun h =>
        match initMachine Config.suggested Launch.blank h with
        | .error r => r == .configError
        | .ok _ => false) = true := by decide +kernel

/-! ### Decoding -/

/-- The decoder reads exactly `i` from `bytes`. -/
def reads (bytes : List Byte) (i : Instr) : Bool :=
  match decode bytes with
  | .ok (j, rest) => j == i && rest.isEmpty
  | .error _ => false

/-- Strings that end too early are refused by name (R131). -/
theorem test_decode_truncated :
    decode [] = .error .noOpcode ∧ decode [0xA9] = .error (.truncated 0xA9) ∧ decode [0xAD, 0x00] = .error (.truncated 0xAD) := ⟨rfl, rfl, rfl⟩

/-- The host's numbering: the opcode in bits 7:0, the operand bytes above it, and zero above the bits the table gives (R131). -/
theorem test_decodeTableWord :
    decodeTableWord 24 0x12349D = some (.staAbx 0x1234) ∧ decodeTableWord 16 0x80A9 = some (.ldaImm 0x80) ∧
      decodeTableWord 8 0x00 = some .brk := by decide

/-- The sixteen opcodes `$00` to `$0F`, written out from the encoding table (R130, R131, R134): the low operand byte comes first. -/
theorem test_decode_0x :
    (reads [0x00] .brk && reads [0x01, 0x34] (.oraIzx 0x34) && reads [0x02] .jam02 &&
      reads [0x03, 0x34] (.sloIzx 0x34) && reads [0x04, 0x34] (.nopZp04 0x34) && reads [0x05, 0x34] (.oraZp 0x34) &&
      reads [0x06, 0x34] (.aslZp 0x34) && reads [0x07, 0x34] (.sloZp 0x34) && reads [0x08] .php &&
      reads [0x09, 0x34] (.oraImm 0x34) && reads [0x0A] .aslAcc && reads [0x0B, 0x34] (.ancImm0B 0x34) &&
      reads [0x0C, 0x34, 0x12] (.nopAbs0C 0x1234) && reads [0x0D, 0x34, 0x12] (.oraAbs 0x1234) &&
      reads [0x0E, 0x34, 0x12] (.aslAbs 0x1234) && reads [0x0F, 0x34, 0x12] (.sloAbs 0x1234)) = true := by decide

/-- The sixteen opcodes `$10` to `$1F`, written out from the encoding table (R130, R131, R134): the low operand byte comes first. -/
theorem test_decode_1x :
    (reads [0x10, 0x34] (.bpl 0x34) && reads [0x11, 0x34] (.oraIzy 0x34) && reads [0x12] .jam12 &&
      reads [0x13, 0x34] (.sloIzy 0x34) && reads [0x14, 0x34] (.nopZpx14 0x34) && reads [0x15, 0x34] (.oraZpx 0x34) &&
      reads [0x16, 0x34] (.aslZpx 0x34) && reads [0x17, 0x34] (.sloZpx 0x34) && reads [0x18] .clc &&
      reads [0x19, 0x34, 0x12] (.oraAby 0x1234) && reads [0x1A] .nopImp1A &&
      reads [0x1B, 0x34, 0x12] (.sloAby 0x1234) && reads [0x1C, 0x34, 0x12] (.nopAbx1C 0x1234) &&
      reads [0x1D, 0x34, 0x12] (.oraAbx 0x1234) && reads [0x1E, 0x34, 0x12] (.aslAbx 0x1234) &&
      reads [0x1F, 0x34, 0x12] (.sloAbx 0x1234)) = true := by decide

/-- The sixteen opcodes `$20` to `$2F`, written out from the encoding table (R130, R131, R134): the low operand byte comes first. -/
theorem test_decode_2x :
    (reads [0x20, 0x34, 0x12] (.jsr 0x1234) && reads [0x21, 0x34] (.andIzx 0x34) && reads [0x22] .jam22 &&
      reads [0x23, 0x34] (.rlaIzx 0x34) && reads [0x24, 0x34] (.bitZp 0x34) && reads [0x25, 0x34] (.andZp 0x34) &&
      reads [0x26, 0x34] (.rolZp 0x34) && reads [0x27, 0x34] (.rlaZp 0x34) && reads [0x28] .plp &&
      reads [0x29, 0x34] (.andImm 0x34) && reads [0x2A] .rolAcc && reads [0x2B, 0x34] (.ancImm2B 0x34) &&
      reads [0x2C, 0x34, 0x12] (.bitAbs 0x1234) && reads [0x2D, 0x34, 0x12] (.andAbs 0x1234) &&
      reads [0x2E, 0x34, 0x12] (.rolAbs 0x1234) && reads [0x2F, 0x34, 0x12] (.rlaAbs 0x1234)) = true := by decide

/-- The sixteen opcodes `$30` to `$3F`, written out from the encoding table (R130, R131, R134): the low operand byte comes first. -/
theorem test_decode_3x :
    (reads [0x30, 0x34] (.bmi 0x34) && reads [0x31, 0x34] (.andIzy 0x34) && reads [0x32] .jam32 &&
      reads [0x33, 0x34] (.rlaIzy 0x34) && reads [0x34, 0x34] (.nopZpx34 0x34) && reads [0x35, 0x34] (.andZpx 0x34) &&
      reads [0x36, 0x34] (.rolZpx 0x34) && reads [0x37, 0x34] (.rlaZpx 0x34) && reads [0x38] .sec &&
      reads [0x39, 0x34, 0x12] (.andAby 0x1234) && reads [0x3A] .nopImp3A &&
      reads [0x3B, 0x34, 0x12] (.rlaAby 0x1234) && reads [0x3C, 0x34, 0x12] (.nopAbx3C 0x1234) &&
      reads [0x3D, 0x34, 0x12] (.andAbx 0x1234) && reads [0x3E, 0x34, 0x12] (.rolAbx 0x1234) &&
      reads [0x3F, 0x34, 0x12] (.rlaAbx 0x1234)) = true := by decide

/-- The sixteen opcodes `$40` to `$4F`, written out from the encoding table (R130, R131, R134): the low operand byte comes first. -/
theorem test_decode_4x :
    (reads [0x40] .rti && reads [0x41, 0x34] (.eorIzx 0x34) && reads [0x42] .jam42 &&
      reads [0x43, 0x34] (.sreIzx 0x34) && reads [0x44, 0x34] (.nopZp44 0x34) && reads [0x45, 0x34] (.eorZp 0x34) &&
      reads [0x46, 0x34] (.lsrZp 0x34) && reads [0x47, 0x34] (.sreZp 0x34) && reads [0x48] .pha &&
      reads [0x49, 0x34] (.eorImm 0x34) && reads [0x4A] .lsrAcc && reads [0x4B, 0x34] (.alrImm 0x34) &&
      reads [0x4C, 0x34, 0x12] (.jmpAbs 0x1234) && reads [0x4D, 0x34, 0x12] (.eorAbs 0x1234) &&
      reads [0x4E, 0x34, 0x12] (.lsrAbs 0x1234) && reads [0x4F, 0x34, 0x12] (.sreAbs 0x1234)) = true := by decide

/-- The sixteen opcodes `$50` to `$5F`, written out from the encoding table (R130, R131, R134): the low operand byte comes first. -/
theorem test_decode_5x :
    (reads [0x50, 0x34] (.bvc 0x34) && reads [0x51, 0x34] (.eorIzy 0x34) && reads [0x52] .jam52 &&
      reads [0x53, 0x34] (.sreIzy 0x34) && reads [0x54, 0x34] (.nopZpx54 0x34) && reads [0x55, 0x34] (.eorZpx 0x34) &&
      reads [0x56, 0x34] (.lsrZpx 0x34) && reads [0x57, 0x34] (.sreZpx 0x34) && reads [0x58] .cli &&
      reads [0x59, 0x34, 0x12] (.eorAby 0x1234) && reads [0x5A] .nopImp5A &&
      reads [0x5B, 0x34, 0x12] (.sreAby 0x1234) && reads [0x5C, 0x34, 0x12] (.nopAbx5C 0x1234) &&
      reads [0x5D, 0x34, 0x12] (.eorAbx 0x1234) && reads [0x5E, 0x34, 0x12] (.lsrAbx 0x1234) &&
      reads [0x5F, 0x34, 0x12] (.sreAbx 0x1234)) = true := by decide

/-- The sixteen opcodes `$60` to `$6F`, written out from the encoding table (R130, R131, R134): the low operand byte comes first. -/
theorem test_decode_6x :
    (reads [0x60] .rts && reads [0x61, 0x34] (.adcIzx 0x34) && reads [0x62] .jam62 &&
      reads [0x63, 0x34] (.rraIzx 0x34) && reads [0x64, 0x34] (.nopZp64 0x34) && reads [0x65, 0x34] (.adcZp 0x34) &&
      reads [0x66, 0x34] (.rorZp 0x34) && reads [0x67, 0x34] (.rraZp 0x34) && reads [0x68] .pla &&
      reads [0x69, 0x34] (.adcImm 0x34) && reads [0x6A] .rorAcc && reads [0x6B, 0x34] (.arrImm 0x34) &&
      reads [0x6C, 0x34, 0x12] (.jmpInd 0x1234) && reads [0x6D, 0x34, 0x12] (.adcAbs 0x1234) &&
      reads [0x6E, 0x34, 0x12] (.rorAbs 0x1234) && reads [0x6F, 0x34, 0x12] (.rraAbs 0x1234)) = true := by decide

/-- The sixteen opcodes `$70` to `$7F`, written out from the encoding table (R130, R131, R134): the low operand byte comes first. -/
theorem test_decode_7x :
    (reads [0x70, 0x34] (.bvs 0x34) && reads [0x71, 0x34] (.adcIzy 0x34) && reads [0x72] .jam72 &&
      reads [0x73, 0x34] (.rraIzy 0x34) && reads [0x74, 0x34] (.nopZpx74 0x34) && reads [0x75, 0x34] (.adcZpx 0x34) &&
      reads [0x76, 0x34] (.rorZpx 0x34) && reads [0x77, 0x34] (.rraZpx 0x34) && reads [0x78] .sei &&
      reads [0x79, 0x34, 0x12] (.adcAby 0x1234) && reads [0x7A] .nopImp7A &&
      reads [0x7B, 0x34, 0x12] (.rraAby 0x1234) && reads [0x7C, 0x34, 0x12] (.nopAbx7C 0x1234) &&
      reads [0x7D, 0x34, 0x12] (.adcAbx 0x1234) && reads [0x7E, 0x34, 0x12] (.rorAbx 0x1234) &&
      reads [0x7F, 0x34, 0x12] (.rraAbx 0x1234)) = true := by decide

/-- The sixteen opcodes `$80` to `$8F`, written out from the encoding table (R130, R131, R134): the low operand byte comes first. -/
theorem test_decode_8x :
    (reads [0x80, 0x34] (.nopImm80 0x34) && reads [0x81, 0x34] (.staIzx 0x34) &&
      reads [0x82, 0x34] (.nopImm82 0x34) && reads [0x83, 0x34] (.saxIzx 0x34) && reads [0x84, 0x34] (.styZp 0x34) &&
      reads [0x85, 0x34] (.staZp 0x34) && reads [0x86, 0x34] (.stxZp 0x34) && reads [0x87, 0x34] (.saxZp 0x34) &&
      reads [0x88] .dey && reads [0x89, 0x34] (.nopImm89 0x34) && reads [0x8A] .txa &&
      reads [0x8B, 0x34] (.xaaImm 0x34) && reads [0x8C, 0x34, 0x12] (.styAbs 0x1234) &&
      reads [0x8D, 0x34, 0x12] (.staAbs 0x1234) && reads [0x8E, 0x34, 0x12] (.stxAbs 0x1234) &&
      reads [0x8F, 0x34, 0x12] (.saxAbs 0x1234)) = true := by decide

/-- The sixteen opcodes `$90` to `$9F`, written out from the encoding table (R130, R131, R134): the low operand byte comes first. -/
theorem test_decode_9x :
    (reads [0x90, 0x34] (.bcc 0x34) && reads [0x91, 0x34] (.staIzy 0x34) && reads [0x92] .jam92 &&
      reads [0x93, 0x34] (.shaIzy 0x34) && reads [0x94, 0x34] (.styZpx 0x34) && reads [0x95, 0x34] (.staZpx 0x34) &&
      reads [0x96, 0x34] (.stxZpy 0x34) && reads [0x97, 0x34] (.saxZpy 0x34) && reads [0x98] .tya &&
      reads [0x99, 0x34, 0x12] (.staAby 0x1234) && reads [0x9A] .txs && reads [0x9B, 0x34, 0x12] (.tasAby 0x1234) &&
      reads [0x9C, 0x34, 0x12] (.shyAbx 0x1234) && reads [0x9D, 0x34, 0x12] (.staAbx 0x1234) &&
      reads [0x9E, 0x34, 0x12] (.shxAby 0x1234) && reads [0x9F, 0x34, 0x12] (.shaAby 0x1234)) = true := by decide

/-- The sixteen opcodes `$A0` to `$AF`, written out from the encoding table (R130, R131, R134): the low operand byte comes first. -/
theorem test_decode_Ax :
    (reads [0xA0, 0x34] (.ldyImm 0x34) && reads [0xA1, 0x34] (.ldaIzx 0x34) && reads [0xA2, 0x34] (.ldxImm 0x34) &&
      reads [0xA3, 0x34] (.laxIzx 0x34) && reads [0xA4, 0x34] (.ldyZp 0x34) && reads [0xA5, 0x34] (.ldaZp 0x34) &&
      reads [0xA6, 0x34] (.ldxZp 0x34) && reads [0xA7, 0x34] (.laxZp 0x34) && reads [0xA8] .tay &&
      reads [0xA9, 0x34] (.ldaImm 0x34) && reads [0xAA] .tax && reads [0xAB, 0x34] (.lxaImm 0x34) &&
      reads [0xAC, 0x34, 0x12] (.ldyAbs 0x1234) && reads [0xAD, 0x34, 0x12] (.ldaAbs 0x1234) &&
      reads [0xAE, 0x34, 0x12] (.ldxAbs 0x1234) && reads [0xAF, 0x34, 0x12] (.laxAbs 0x1234)) = true := by decide

/-- The sixteen opcodes `$B0` to `$BF`, written out from the encoding table (R130, R131, R134): the low operand byte comes first. -/
theorem test_decode_Bx :
    (reads [0xB0, 0x34] (.bcs 0x34) && reads [0xB1, 0x34] (.ldaIzy 0x34) && reads [0xB2] .jamB2 &&
      reads [0xB3, 0x34] (.laxIzy 0x34) && reads [0xB4, 0x34] (.ldyZpx 0x34) && reads [0xB5, 0x34] (.ldaZpx 0x34) &&
      reads [0xB6, 0x34] (.ldxZpy 0x34) && reads [0xB7, 0x34] (.laxZpy 0x34) && reads [0xB8] .clv &&
      reads [0xB9, 0x34, 0x12] (.ldaAby 0x1234) && reads [0xBA] .tsx && reads [0xBB, 0x34, 0x12] (.lasAby 0x1234) &&
      reads [0xBC, 0x34, 0x12] (.ldyAbx 0x1234) && reads [0xBD, 0x34, 0x12] (.ldaAbx 0x1234) &&
      reads [0xBE, 0x34, 0x12] (.ldxAby 0x1234) && reads [0xBF, 0x34, 0x12] (.laxAby 0x1234)) = true := by decide

/-- The sixteen opcodes `$C0` to `$CF`, written out from the encoding table (R130, R131, R134): the low operand byte comes first. -/
theorem test_decode_Cx :
    (reads [0xC0, 0x34] (.cpyImm 0x34) && reads [0xC1, 0x34] (.cmpIzx 0x34) && reads [0xC2, 0x34] (.nopImmC2 0x34) &&
      reads [0xC3, 0x34] (.dcpIzx 0x34) && reads [0xC4, 0x34] (.cpyZp 0x34) && reads [0xC5, 0x34] (.cmpZp 0x34) &&
      reads [0xC6, 0x34] (.decZp 0x34) && reads [0xC7, 0x34] (.dcpZp 0x34) && reads [0xC8] .iny &&
      reads [0xC9, 0x34] (.cmpImm 0x34) && reads [0xCA] .dex && reads [0xCB, 0x34] (.axsImm 0x34) &&
      reads [0xCC, 0x34, 0x12] (.cpyAbs 0x1234) && reads [0xCD, 0x34, 0x12] (.cmpAbs 0x1234) &&
      reads [0xCE, 0x34, 0x12] (.decAbs 0x1234) && reads [0xCF, 0x34, 0x12] (.dcpAbs 0x1234)) = true := by decide

/-- The sixteen opcodes `$D0` to `$DF`, written out from the encoding table (R130, R131, R134): the low operand byte comes first. -/
theorem test_decode_Dx :
    (reads [0xD0, 0x34] (.bne 0x34) && reads [0xD1, 0x34] (.cmpIzy 0x34) && reads [0xD2] .jamD2 &&
      reads [0xD3, 0x34] (.dcpIzy 0x34) && reads [0xD4, 0x34] (.nopZpxD4 0x34) && reads [0xD5, 0x34] (.cmpZpx 0x34) &&
      reads [0xD6, 0x34] (.decZpx 0x34) && reads [0xD7, 0x34] (.dcpZpx 0x34) && reads [0xD8] .cld &&
      reads [0xD9, 0x34, 0x12] (.cmpAby 0x1234) && reads [0xDA] .nopImpDA &&
      reads [0xDB, 0x34, 0x12] (.dcpAby 0x1234) && reads [0xDC, 0x34, 0x12] (.nopAbxDC 0x1234) &&
      reads [0xDD, 0x34, 0x12] (.cmpAbx 0x1234) && reads [0xDE, 0x34, 0x12] (.decAbx 0x1234) &&
      reads [0xDF, 0x34, 0x12] (.dcpAbx 0x1234)) = true := by decide

/-- The sixteen opcodes `$E0` to `$EF`, written out from the encoding table (R130, R131, R134): the low operand byte comes first. -/
theorem test_decode_Ex :
    (reads [0xE0, 0x34] (.cpxImm 0x34) && reads [0xE1, 0x34] (.sbcIzx 0x34) && reads [0xE2, 0x34] (.nopImmE2 0x34) &&
      reads [0xE3, 0x34] (.isbIzx 0x34) && reads [0xE4, 0x34] (.cpxZp 0x34) && reads [0xE5, 0x34] (.sbcZp 0x34) &&
      reads [0xE6, 0x34] (.incZp 0x34) && reads [0xE7, 0x34] (.isbZp 0x34) && reads [0xE8] .inx &&
      reads [0xE9, 0x34] (.sbcImm 0x34) && reads [0xEA] .nop && reads [0xEB, 0x34] (.sbcImmEB 0x34) &&
      reads [0xEC, 0x34, 0x12] (.cpxAbs 0x1234) && reads [0xED, 0x34, 0x12] (.sbcAbs 0x1234) &&
      reads [0xEE, 0x34, 0x12] (.incAbs 0x1234) && reads [0xEF, 0x34, 0x12] (.isbAbs 0x1234)) = true := by decide

/-- The sixteen opcodes `$F0` to `$FF`, written out from the encoding table (R130, R131, R134): the low operand byte comes first. -/
theorem test_decode_Fx :
    (reads [0xF0, 0x34] (.beq 0x34) && reads [0xF1, 0x34] (.sbcIzy 0x34) && reads [0xF2] .jamF2 &&
      reads [0xF3, 0x34] (.isbIzy 0x34) && reads [0xF4, 0x34] (.nopZpxF4 0x34) && reads [0xF5, 0x34] (.sbcZpx 0x34) &&
      reads [0xF6, 0x34] (.incZpx 0x34) && reads [0xF7, 0x34] (.isbZpx 0x34) && reads [0xF8] .sed &&
      reads [0xF9, 0x34, 0x12] (.sbcAby 0x1234) && reads [0xFA] .nopImpFA &&
      reads [0xFB, 0x34, 0x12] (.isbAby 0x1234) && reads [0xFC, 0x34, 0x12] (.nopAbxFC 0x1234) &&
      reads [0xFD, 0x34, 0x12] (.sbcAbx 0x1234) && reads [0xFE, 0x34, 0x12] (.incAbx 0x1234) &&
      reads [0xFF, 0x34, 0x12] (.isbAbx 0x1234)) = true := by decide

/-! ### One step each: vectors of spec/95_test_vectors.md, part 3 -/

/-- The vectors' flat memory: PRG ROM of 64 KiB under every address of the cartridge (spec/95_test_vectors.md, part 2). -/
def flat : State :=
  { State.reset with cart := { Cart.blank with cpuSpace := bankRun .prg true 0 64, prgUnits := 4 } }

/-- A vector's start: registers `A`, `X`, `Y`, `S`, `P` and `PC`, bytes of memory, and the instruction at `PC`. -/
def start (bytes : List Byte) (a x y sp p : Byte) (pc : Word) (mem : List (Word × Byte)) : State :=
  let s : State := { flat with cpu := { a := a, x := x, y := y, sp := sp, pc := pc, p := Flags.ofByte p } }
  pokeBytes bytes pc (mem.foldl (fun t m => pokeAt m.1 m.2 t) s)

/-- One step from `s` takes `n` cycles and ends with the registers and the bytes of memory given. -/
def ends (s : State) (n : Nat) (a x y sp p : Byte) (pc : Word) (mem : List (Word × Byte)) : Bool :=
  match step s with
  | .next t =>
    t.cpu == { a := a, x := x, y := y, sp := sp, pc := pc, p := Flags.ofByte p } && t.clk.cyc == s.clk.cyc + n &&
      mem.all (fun m => peekCpu m.1 t == m.2)
  | _ => false

/-- Vector AM6: `LDA`, `$BD`. -/
theorem test_AM6 : ends (start [0xBD, 0xF0, 0x12] 0x00 0x10 0x00 0xFD 0x24 0x8000 [(0x1200, 0x77), (0x1300, 0x42)]) 5 0x42 0x10 0x00 0xFD 0x24 0x8003 [] = true := by decide

/-- Vector AM9: `STA`, `$9D`. -/
theorem test_AM9 : ends (start [0x9D, 0xF0, 0x12] 0x55 0x10 0x00 0xFD 0x24 0x8000 []) 5 0x55 0x10 0x00 0xFD 0x24 0x8003 [(0x1300, 0x55)] = true := by decide

/-- Vector AM10: `LDA`, `$A1`. -/
theorem test_AM10 : ends (start [0xA1, 0xFE] 0x00 0x01 0x00 0xFD 0x24 0x8000 [(0x0000, 0x12), (0x00FF, 0x34), (0x1234, 0x42)]) 6 0x42 0x01 0x00 0xFD 0x24 0x8002 [] = true := by decide

/-- Vector AM13: `STA`, `$91`. -/
theorem test_AM13 : ends (start [0x91, 0x10] 0x55 0x00 0x01 0xFD 0x24 0x8000 [(0x0010, 0x00), (0x0011, 0x12)]) 6 0x55 0x00 0x01 0xFD 0x24 0x8002 [(0x1201, 0x55)] = true := by decide

/-- Vector AM14: `ASL`, `$1E`. -/
theorem test_AM14 : ends (start [0x1E, 0xF0, 0x12] 0x00 0x0F 0x00 0xFD 0x24 0x8000 [(0x12FF, 0x81)]) 7 0x00 0x0F 0x00 0xFD 0x25 0x8003 [(0x12FF, 0x02)] = true := by decide

/-- Vector LS6: `LDX`, `$BE`. -/
theorem test_LS6 : ends (start [0xBE, 0xFF, 0x02] 0x00 0x00 0x01 0xFD 0x24 0x8000 [(0x0300, 0x80)]) 5 0x00 0x80 0x01 0xFD 0xA4 0x8003 [] = true := by decide

/-- Vector LS7: `LDY`, `$BC`. -/
theorem test_LS7 : ends (start [0xBC, 0x00, 0x03] 0x00 0x01 0x00 0xFD 0x24 0x8000 [(0x0301, 0x00)]) 4 0x00 0x01 0x00 0xFD 0x26 0x8003 [] = true := by decide

/-- Vector LS10: `STX`, `$96`. -/
theorem test_LS10 : ends (start [0x96, 0xFF] 0x00 0x33 0x02 0xFD 0x24 0x8000 []) 4 0x00 0x33 0x02 0xFD 0x24 0x8002 [(0x0001, 0x33)] = true := by decide

/-- Vector LS11: `STY`, `$8C`. -/
theorem test_LS11 : ends (start [0x8C, 0x00, 0x03] 0x00 0x00 0x44 0xFD 0x24 0x8000 []) 4 0x00 0x00 0x44 0xFD 0x24 0x8003 [(0x0300, 0x44)] = true := by decide

/-- Vector LS13: `TAX`, `$AA`. -/
theorem test_LS13 : ends (start [0xAA] 0x80 0x00 0x00 0xFD 0x24 0x8000 []) 2 0x80 0x80 0x00 0xFD 0xA4 0x8001 [] = true := by decide

/-- Vector LS14: `TAY`, `$A8`. -/
theorem test_LS14 : ends (start [0xA8] 0x00 0x00 0x00 0xFD 0x24 0x8000 []) 2 0x00 0x00 0x00 0xFD 0x26 0x8001 [] = true := by decide

/-- Vector LS15: `TXA`, `$8A`. -/
theorem test_LS15 : ends (start [0x8A] 0x00 0x01 0x00 0xFD 0xA6 0x8000 []) 2 0x01 0x01 0x00 0xFD 0x24 0x8001 [] = true := by decide

/-- Vector LS16: `TYA`, `$98`. -/
theorem test_LS16 : ends (start [0x98] 0x00 0x00 0xFF 0xFD 0x24 0x8000 []) 2 0xFF 0x00 0xFF 0xFD 0xA4 0x8001 [] = true := by decide

/-- Vector LS17: `TSX`, `$BA`. -/
theorem test_LS17 : ends (start [0xBA] 0x00 0x00 0x00 0x00 0x24 0x8000 []) 2 0x00 0x00 0x00 0x00 0x26 0x8001 [] = true := by decide

/-- Vector LS18: `TXS`, `$9A`. -/
theorem test_LS18 : ends (start [0x9A] 0x00 0x80 0x00 0xFD 0x24 0x8000 []) 2 0x00 0x80 0x00 0x80 0x24 0x8001 [] = true := by decide

/-- Vector AL1: `ADC`, `$69`. -/
theorem test_AL1 : ends (start [0x69, 0x01] 0x7F 0x00 0x00 0xFD 0x24 0x8000 []) 2 0x80 0x00 0x00 0xFD 0xE4 0x8002 [] = true := by decide

/-- Vector AL5: `ADC`, `$69`. -/
theorem test_AL5 : ends (start [0x69, 0x19] 0x19 0x00 0x00 0xFD 0x2C 0x8000 []) 2 0x32 0x00 0x00 0xFD 0x2C 0x8002 [] = true := by decide

/-- Vector AL6: `SBC`, `$E9`. -/
theorem test_AL6 : ends (start [0xE9, 0x01] 0x00 0x00 0x00 0xFD 0x25 0x8000 []) 2 0xFF 0x00 0x00 0xFD 0xA4 0x8002 [] = true := by decide

/-- Vector AL10: `SBC`, `$E9`. -/
theorem test_AL10 : ends (start [0xE9, 0x01] 0x10 0x00 0x00 0xFD 0x2D 0x8000 []) 2 0x0F 0x00 0x00 0xFD 0x2D 0x8002 [] = true := by decide

/-- Vector AL11: `AND`, `$29`. -/
theorem test_AL11 : ends (start [0x29, 0x0F] 0xF0 0x00 0x00 0xFD 0x24 0x8000 []) 2 0x00 0x00 0x00 0xFD 0x26 0x8002 [] = true := by decide

/-- Vector AL12: `ORA`, `$09`. -/
theorem test_AL12 : ends (start [0x09, 0x80] 0x01 0x00 0x00 0xFD 0x24 0x8000 []) 2 0x81 0x00 0x00 0xFD 0xA4 0x8002 [] = true := by decide

/-- Vector AL13: `EOR`, `$49`. -/
theorem test_AL13 : ends (start [0x49, 0xFF] 0xFF 0x00 0x00 0xFD 0x24 0x8000 []) 2 0x00 0x00 0x00 0xFD 0x26 0x8002 [] = true := by decide

/-- Vector AL14: `CMP`, `$C9`. -/
theorem test_AL14 : ends (start [0xC9, 0x10] 0x10 0x00 0x00 0xFD 0x24 0x8000 []) 2 0x10 0x00 0x00 0xFD 0x27 0x8002 [] = true := by decide

/-- Vector AL16: `CMP`, `$C9`. -/
theorem test_AL16 : ends (start [0xC9, 0x00] 0x80 0x00 0x00 0xFD 0x64 0x8000 []) 2 0x80 0x00 0x00 0xFD 0xE5 0x8002 [] = true := by decide

/-- Vector AL17: `CPX`, `$E0`. -/
theorem test_AL17 : ends (start [0xE0, 0x01] 0x00 0x02 0x00 0xFD 0x24 0x8000 []) 2 0x00 0x02 0x00 0xFD 0x25 0x8002 [] = true := by decide

/-- Vector AL18: `CPY`, `$C4`. -/
theorem test_AL18 : ends (start [0xC4, 0x10] 0x00 0x00 0x00 0xFD 0x24 0x8000 [(0x0010, 0x01)]) 3 0x00 0x00 0x00 0xFD 0xA4 0x8002 [] = true := by decide

/-- Vector AL19: `BIT`, `$24`. -/
theorem test_AL19 : ends (start [0x24, 0x10] 0x01 0x00 0x00 0xFD 0x24 0x8000 [(0x0010, 0xC0)]) 3 0x01 0x00 0x00 0xFD 0xE6 0x8002 [] = true := by decide

/-- Vector AL20: `BIT`, `$2C`. -/
theorem test_AL20 : ends (start [0x2C, 0x00, 0x03] 0xFF 0x00 0x00 0xFD 0xE4 0x8000 [(0x0300, 0x3F)]) 4 0xFF 0x00 0x00 0xFD 0x24 0x8003 [] = true := by decide

/-- Vector AL21: `INX`, `$E8`. -/
theorem test_AL21 : ends (start [0xE8] 0x00 0xFF 0x00 0xFD 0x24 0x8000 []) 2 0x00 0x00 0x00 0xFD 0x26 0x8001 [] = true := by decide

/-- Vector AL22: `DEX`, `$CA`. -/
theorem test_AL22 : ends (start [0xCA] 0x00 0x00 0x00 0xFD 0x24 0x8000 []) 2 0x00 0xFF 0x00 0xFD 0xA4 0x8001 [] = true := by decide

/-- Vector AL23: `INY`, `$C8`. -/
theorem test_AL23 : ends (start [0xC8] 0x00 0x00 0x7F 0xFD 0x24 0x8000 []) 2 0x00 0x00 0x80 0xFD 0xA4 0x8001 [] = true := by decide

/-- Vector AL24: `DEY`, `$88`. -/
theorem test_AL24 : ends (start [0x88] 0x00 0x00 0x01 0xFD 0x24 0x8000 []) 2 0x00 0x00 0x00 0xFD 0x26 0x8001 [] = true := by decide

/-- Vector SH2: `LSR`, `$4A`. -/
theorem test_SH2 : ends (start [0x4A] 0x01 0x00 0x00 0xFD 0x24 0x8000 []) 2 0x00 0x00 0x00 0xFD 0x27 0x8001 [] = true := by decide

/-- Vector SH7: `ROL`, `$36`. -/
theorem test_SH7 : ends (start [0x36, 0x10] 0x00 0x01 0x00 0xFD 0x25 0x8000 [(0x0011, 0x7F)]) 6 0x00 0x01 0x00 0xFD 0xA4 0x8002 [(0x0011, 0xFF)] = true := by decide

/-- Vector SH8: `ROR`, `$6E`. -/
theorem test_SH8 : ends (start [0x6E, 0x00, 0x03] 0x00 0x00 0x00 0xFD 0x24 0x8000 [(0x0300, 0x01)]) 6 0x00 0x00 0x00 0xFD 0x27 0x8003 [(0x0300, 0x00)] = true := by decide

/-- Vector SH11: `INC`, `$FE`. -/
theorem test_SH11 : ends (start [0xFE, 0xFF, 0x02] 0x00 0x01 0x00 0xFD 0x24 0x8000 [(0x0300, 0x7F)]) 7 0x00 0x01 0x00 0xFD 0xA4 0x8003 [(0x0300, 0x80)] = true := by decide

/-- Vector SH12: `DEC`, `$DE`. -/
theorem test_SH12 : ends (start [0xDE, 0x00, 0x03] 0x00 0x00 0x00 0xFD 0x24 0x8000 [(0x0300, 0x01)]) 7 0x00 0x00 0x00 0xFD 0x26 0x8003 [(0x0300, 0x00)] = true := by decide

/-- Vector CT2: `JMP`, `$6C`. -/
theorem test_CT2 : ends (start [0x6C, 0xFF, 0x02] 0x00 0x00 0x00 0xFD 0x24 0x8000 [(0x0200, 0x12), (0x02FF, 0x34), (0x0300, 0x56)]) 5 0x00 0x00 0x00 0xFD 0x24 0x1234 [] = true := by decide

/-- Vector CT4: `JSR`, `$20`. -/
theorem test_CT4 : ends (start [0x20, 0x34, 0x12] 0x00 0x00 0x00 0xFD 0x24 0x8000 []) 6 0x00 0x00 0x00 0xFB 0x24 0x1234 [(0x01FD, 0x80), (0x01FC, 0x02)] = true := by decide

/-- Vector CT6: `RTS`, `$60`. -/
theorem test_CT6 : ends (start [0x60] 0x00 0x00 0x00 0xFF 0x24 0x8000 [(0x0100, 0x02), (0x0101, 0x80)]) 6 0x00 0x00 0x00 0x01 0x24 0x8003 [] = true := by decide

/-- Vector CT9: `BNE`, `$D0`. -/
theorem test_CT9 : ends (start [0xD0, 0xFB] 0x00 0x00 0x00 0xFD 0x24 0x8000 []) 4 0x00 0x00 0x00 0xFD 0x24 0x7FFD [] = true := by decide

/-- Vector CT10: `BEQ`, `$F0`. -/
theorem test_CT10 : ends (start [0xF0, 0x7F] 0x00 0x00 0x00 0xFD 0x26 0x80F0 []) 4 0x00 0x00 0x00 0xFD 0x26 0x8171 [] = true := by decide

/-- Vector CT11: `BCC`, `$90`. -/
theorem test_CT11 : ends (start [0x90, 0x02] 0x00 0x00 0x00 0xFD 0x24 0x8000 []) 3 0x00 0x00 0x00 0xFD 0x24 0x8004 [] = true := by decide

/-- Vector CT12: `BCS`, `$B0`. -/
theorem test_CT12 : ends (start [0xB0, 0x02] 0x00 0x00 0x00 0xFD 0x24 0x8000 []) 2 0x00 0x00 0x00 0xFD 0x24 0x8002 [] = true := by decide

/-- Vector CT13: `BMI`, `$30`. -/
theorem test_CT13 : ends (start [0x30, 0x02] 0x00 0x00 0x00 0xFD 0xA4 0x8000 []) 3 0x00 0x00 0x00 0xFD 0xA4 0x8004 [] = true := by decide

/-- Vector CT15: `BVC`, `$50`. -/
theorem test_CT15 : ends (start [0x50, 0x02] 0x00 0x00 0x00 0xFD 0x24 0x8000 []) 3 0x00 0x00 0x00 0xFD 0x24 0x8004 [] = true := by decide

/-- Vector CT16: `BVS`, `$70`. -/
theorem test_CT16 : ends (start [0x70, 0x02] 0x00 0x00 0x00 0xFD 0x64 0x8000 []) 3 0x00 0x00 0x00 0xFD 0x64 0x8004 [] = true := by decide

/-- Vector CT18: `BPL`, `$10`. -/
theorem test_CT18 : ends (start [0x10, 0x7F] 0x00 0x00 0x00 0xFD 0x24 0xFFF0 []) 4 0x00 0x00 0x00 0xFD 0x24 0x0071 [] = true := by decide

/-- Vector SF2: `PHA`, `$48`. -/
theorem test_SF2 : ends (start [0x48] 0x55 0x00 0x00 0x00 0x24 0x8000 []) 3 0x55 0x00 0x00 0xFF 0x24 0x8001 [(0x0100, 0x55)] = true := by decide

/-- Vector SF3: `PHP`, `$08`. -/
theorem test_SF3 : ends (start [0x08] 0x00 0x00 0x00 0xFD 0x24 0x8000 []) 3 0x00 0x00 0x00 0xFC 0x24 0x8001 [(0x01FD, 0x34)] = true := by decide

/-- Vector SF5: `PLA`, `$68`. -/
theorem test_SF5 : ends (start [0x68] 0x00 0x00 0x00 0xFF 0x24 0x8000 [(0x0100, 0x00)]) 4 0x00 0x00 0x00 0x00 0x26 0x8001 [] = true := by decide

/-- Vector SF6: `PLP`, `$28`. -/
theorem test_SF6 : ends (start [0x28] 0x00 0x00 0x00 0xFC 0x24 0x8000 [(0x01FD, 0xFF)]) 4 0x00 0x00 0x00 0xFD 0xEF 0x8001 [] = true := by decide

/-- Vector SF8: `CLC`, `$18`. -/
theorem test_SF8 : ends (start [0x18] 0x00 0x00 0x00 0xFD 0x25 0x8000 []) 2 0x00 0x00 0x00 0xFD 0x24 0x8001 [] = true := by decide

/-- Vector SF9: `SEC`, `$38`. -/
theorem test_SF9 : ends (start [0x38] 0x00 0x00 0x00 0xFD 0x24 0x8000 []) 2 0x00 0x00 0x00 0xFD 0x25 0x8001 [] = true := by decide

/-- Vector SF10: `CLI`, `$58`. -/
theorem test_SF10 : ends (start [0x58] 0x00 0x00 0x00 0xFD 0x24 0x8000 []) 2 0x00 0x00 0x00 0xFD 0x20 0x8001 [] = true := by decide

/-- Vector SF11: `SEI`, `$78`. -/
theorem test_SF11 : ends (start [0x78] 0x00 0x00 0x00 0xFD 0x20 0x8000 []) 2 0x00 0x00 0x00 0xFD 0x24 0x8001 [] = true := by decide

/-- Vector SF12: `CLD`, `$D8`. -/
theorem test_SF12 : ends (start [0xD8] 0x00 0x00 0x00 0xFD 0x2C 0x8000 []) 2 0x00 0x00 0x00 0xFD 0x24 0x8001 [] = true := by decide

/-- Vector SF13: `SED`, `$F8`. -/
theorem test_SF13 : ends (start [0xF8] 0x00 0x00 0x00 0xFD 0x24 0x8000 []) 2 0x00 0x00 0x00 0xFD 0x2C 0x8001 [] = true := by decide

/-- Vector SF14: `CLV`, `$B8`. -/
theorem test_SF14 : ends (start [0xB8] 0x00 0x00 0x00 0xFD 0x64 0x8000 []) 2 0x00 0x00 0x00 0xFD 0x24 0x8001 [] = true := by decide

/-- Vector SF15: `NOP`, `$EA`. -/
theorem test_SF15 : ends (start [0xEA] 0x00 0x00 0x00 0xFD 0x24 0x8000 []) 2 0x00 0x00 0x00 0xFD 0x24 0x8001 [] = true := by decide

/-- Vector SF16: `BRK`, `$00`. -/
theorem test_SF16 : ends (start [0x00, 0xFF] 0x00 0x00 0x00 0xFD 0x20 0x8000 [(0xFFFE, 0x00), (0xFFFF, 0x90)]) 7 0x00 0x00 0x00 0xFA 0x24 0x9000 [(0x01FD, 0x80), (0x01FC, 0x02), (0x01FB, 0x30)] = true := by decide

/-- Vector SF17: `RTI`, `$40`. -/
theorem test_SF17 : ends (start [0x40] 0x00 0x00 0x00 0xFA 0x24 0x8000 [(0x01FB, 0xF3), (0x01FC, 0x02), (0x01FD, 0x80)]) 6 0x00 0x00 0x00 0xFD 0xE3 0x8002 [] = true := by decide

/-- Vector IL5: `*NOP`, `$0C`. -/
theorem test_IL5 : ends (start [0x0C, 0x02, 0x20] 0x00 0x00 0x00 0xFD 0x24 0x8000 []) 4 0x00 0x00 0x00 0xFD 0x24 0x8003 [] = true := by decide

/-- Vector IL6: `*NOP`, `$1C`. -/
theorem test_IL6 : ends (start [0x1C, 0xFF, 0x02] 0x00 0x01 0x00 0xFD 0x24 0x8000 []) 5 0x00 0x01 0x00 0xFD 0x24 0x8003 [] = true := by decide

/-- Vector IL8: `*LAX`, `$B3`. -/
theorem test_IL8 : ends (start [0xB3, 0x10] 0x00 0x00 0x01 0xFD 0x24 0x8000 [(0x0010, 0xFF), (0x0011, 0x02), (0x0300, 0x00)]) 6 0x00 0x00 0x01 0xFD 0x26 0x8002 [] = true := by decide

/-- Vector IL9: `*SAX`, `$87`. -/
theorem test_IL9 : ends (start [0x87, 0x10] 0xF0 0x3C 0x00 0xFD 0x24 0x8000 []) 3 0xF0 0x3C 0x00 0xFD 0x24 0x8002 [(0x0010, 0x30)] = true := by decide

/-- Vector IL10: `*SBC`, `$EB`. -/
theorem test_IL10 : ends (start [0xEB, 0x01] 0x00 0x00 0x00 0xFD 0x25 0x8000 []) 2 0xFF 0x00 0x00 0xFD 0xA4 0x8002 [] = true := by decide

/-- Vector IL12: `*ISB`, `$E7`. -/
theorem test_IL12 : ends (start [0xE7, 0x10] 0x10 0x00 0x00 0xFD 0x25 0x8000 [(0x0010, 0x0F)]) 5 0x00 0x00 0x00 0xFD 0x27 0x8002 [(0x0010, 0x10)] = true := by decide

/-- Vector IL13: `*SLO`, `$07`. -/
theorem test_IL13 : ends (start [0x07, 0x10] 0x01 0x00 0x00 0xFD 0x24 0x8000 [(0x0010, 0x80)]) 5 0x01 0x00 0x00 0xFD 0x25 0x8002 [(0x0010, 0x00)] = true := by decide

/-- Vector IL14: `*RLA`, `$27`. -/
theorem test_IL14 : ends (start [0x27, 0x10] 0xFF 0x00 0x00 0xFD 0x25 0x8000 [(0x0010, 0x80)]) 5 0x01 0x00 0x00 0xFD 0x25 0x8002 [(0x0010, 0x01)] = true := by decide

/-- Vector IL15: `*SRE`, `$47`. -/
theorem test_IL15 : ends (start [0x47, 0x10] 0xFF 0x00 0x00 0xFD 0x24 0x8000 [(0x0010, 0x01)]) 5 0xFF 0x00 0x00 0xFD 0xA5 0x8002 [(0x0010, 0x00)] = true := by decide

/-- Vector IL16: `*RRA`, `$67`. -/
theorem test_IL16 : ends (start [0x67, 0x10] 0x01 0x00 0x00 0xFD 0x24 0x8000 [(0x0010, 0x03)]) 5 0x03 0x00 0x00 0xFD 0x24 0x8002 [(0x0010, 0x01)] = true := by decide

/-- Vector IL17: `*DCP`, `$DB`. -/
theorem test_IL17 : ends (start [0xDB, 0xFF, 0x02] 0x00 0x00 0x01 0xFD 0x24 0x8000 [(0x0300, 0x01)]) 7 0x00 0x00 0x01 0xFD 0x27 0x8003 [(0x0300, 0x00)] = true := by decide

/-- Vector IL18: `*ISB`, `$E3`. -/
theorem test_IL18 : ends (start [0xE3, 0x10] 0x05 0x00 0x00 0xFD 0x25 0x8000 [(0x0010, 0x00), (0x0011, 0x03), (0x0300, 0x01)]) 8 0x03 0x00 0x00 0xFD 0x25 0x8002 [(0x0300, 0x02)] = true := by decide

/-- Vector IL19: `*ANC`, `$0B`. -/
theorem test_IL19 : ends (start [0x0B, 0x80] 0xFF 0x00 0x00 0xFD 0x24 0x8000 []) 2 0x80 0x00 0x00 0xFD 0xA5 0x8002 [] = true := by decide

/-- Vector IL20: `*ALR`, `$4B`. -/
theorem test_IL20 : ends (start [0x4B, 0x03] 0xFF 0x00 0x00 0xFD 0x24 0x8000 []) 2 0x01 0x00 0x00 0xFD 0x25 0x8002 [] = true := by decide

/-- Vector IL21: `*ARR`, `$6B`. -/
theorem test_IL21 : ends (start [0x6B, 0xFF] 0xC0 0x00 0x00 0xFD 0x25 0x8000 []) 2 0xE0 0x00 0x00 0xFD 0xA5 0x8002 [] = true := by decide

/-- Vector IL22: `*AXS`, `$CB`. -/
theorem test_IL22 : ends (start [0xCB, 0x01] 0xFF 0x0F 0x00 0xFD 0x24 0x8000 []) 2 0xFF 0x0E 0x00 0xFD 0x25 0x8002 [] = true := by decide

/-- Vector IL23: `*LAS`, `$BB`. -/
theorem test_IL23 : ends (start [0xBB, 0x00, 0x03] 0x00 0x00 0x00 0xF0 0x24 0x8000 [(0x0300, 0x8F)]) 4 0x80 0x80 0x00 0x80 0xA4 0x8003 [] = true := by decide

/-! ### Faults, unstable opcodes, interrupts, DMA -/

/-- Vector IL27: a `JAM` fetches its opcode in one cycle, records the fault with the opcode and its address, and the next step stops on it. -/
theorem test_jam : (match step (start [0x02] 0 0 0 0xFD 0x24 0x8000 []) with
    | .next t => t.clk.cyc == 8 && t.cpu.pc == 0x8001 && t.fault == some (.undispatchableOpcode 0x02 0x8000) &&
        (match step t with
          | .fault r => r == .undispatchableOpcode 0x02 0x8000
          | _ => false)
    | _ => false) = true := by decide

/-- The outcome is a next state of which `f` holds. -/
def nextHas (o : Host.Outcome State Fault Refusal) (f : State → Bool) : Bool :=
  match o with
  | .next t => f t
  | _ => false

/-- `*LXA`, `*XAA` take two cycles and change no memory and neither `Y` nor `S` (R316, R317). -/
theorem test_unstable_loads : ([0xAB, 0x8B] : List Byte).all (fun op =>
    nextHas (step (start [op, 0x5A] 0xFF 1 2 0xFD 0x24 0x8000 []))
      (fun t => t.clk.cyc == 9 && t.cpu.y == 2 && t.cpu.sp == 0xFD && t.cpu.pc == 0x8002 && t.draws == 1 && t.mem.ram == [])) = true := by decide

/-- The unstable stores take five cycles absolute and change no register but `S` in `*TAS` (R318 to R321). -/
theorem test_unstable_stores : ([(0x9F, 0xFD), (0x9E, 0xFD), (0x9C, 0xFD), (0x9B, 0x30)] : List (Byte × Byte)).all (fun c =>
    nextHas (step (start [c.1, 0x00, 0x03] 0xF0 0x3C 1 0xFD 0x24 0x8000 []))
      (fun t => t.clk.cyc == 12 && t.cpu.a == 0xF0 && t.cpu.x == 0x3C && t.cpu.y == 1 && t.cpu.sp == c.2)) = true := by decide

/-- Program P1's entry: a `NOP` with a pending NMI is followed by the interrupt sequence in the same step, nine cycles in all; the pushed `P` has `B` clear. -/
theorem test_nmi_entry :
    (let s := start [0xEA] 0x80 0 0 0xFD 0xA0 0x8005 [(0xFFFA, 0x00), (0xFFFB, 0x90)]
     ends { s with int := { s.int with nmi := { pending := true, active := false }, prevNmiLine := true } } 9 0x80 0 0 0xFA 0xA4 0x9000
       [(0x01FD, 0x80), (0x01FC, 0x06), (0x01FB, 0xA0)]) = true := by decide

/-- Vector M6: an NMI pending at the third cycle of a `BRK` gives it the NMI vector; the pushed byte keeps `B` set, and the NMI is consumed. -/
theorem test_brk_hijacked :
    (let s := start [0x00, 0xFF] 0x80 0 0 0xFD 0xA4 0x8100 [(0xFFFA, 0x00), (0xFFFB, 0x90), (0xFFFE, 0x00), (0xFFFF, 0xA0)]
     let u := { s with int := { s.int with nmi := { pending := true, active := false }, prevNmiLine := true } }
     ends u 7 0x80 0 0 0xFA 0xA4 0x9000 [(0x01FD, 0x81), (0x01FC, 0x02), (0x01FB, 0xB4)]) = true := by decide

/-- Vector M8: a sample fetch alone steals three cycles when the halted read starts with `CYC` even, four when odd. -/
theorem test_dmc_dma_cost : ([(12, 3), (13, 4)] : List (Nat × Nat)).all (fun c =>
    (runDma 0x8000 { State.reset with
      clk := { State.reset.clk with cyc := c.1 }
      dma := { haltReq := true, spriteActive := false, spritePage := 0, dmcActive := true, dmcWait := 2 } }).clk.cyc
      == c.1 + c.2) = true := by decide

/-- Vector M2: the dots executed before the access of a read and of a write cycle, for every `PPU_OFFSET`; each cycle runs three dots. -/
theorem test_dots_per_half_step : ([(0, 1, 1), (1, 2, 2), (2, 1, 2), (3, 1, 2)] : List (Fin 4 × Nat × Nat)).all (fun c =>
    let s : State := { State.reset with
      cfg := { State.reset.cfg with ppuOffset := c.1 }
      clk := { cyc := 7, mclk := 84, ppuClk := 4 * ((84 - c.1.val) / 4) } }
    (startTick .read s).clk.ppuClk == s.clk.ppuClk + 4 * c.2.1 && (startTick .write s).clk.ppuClk == s.clk.ppuClk + 4 * c.2.2 &&
      (readCycle 0 s).2.clk.ppuClk == s.clk.ppuClk + 12 && (writeCycle 0 0 s).clk.ppuClk == s.clk.ppuClk + 12) = true := by decide

/-! ### The picture processor, the audio processor, the controller -/

/-- The bus writes `l` in order, without ticks. -/
def poked (l : List (Word × Byte)) (s : State) : State := l.foldl (fun t m => busWrite m.1 m.2 t) s

/-- Vector M10, the address and scroll registers. -/
theorem test_ppu_scroll :
    (let s := poked [(0x2000, 0x03), (0x2005, 0x7D)] State.reset
     let t := poked [(0x2005, 0x5E)] s
     let u := poked [(0x2006, 0x3D)] t
     let v := poked [(0x2006, 0xF0)] u
     [(s.ppu.t, s.ppu.v, s.ppu.fineX, s.ppu.w), (t.ppu.t, t.ppu.v, t.ppu.fineX, t.ppu.w), (u.ppu.t, u.ppu.v, u.ppu.fineX, u.ppu.w),
      (v.ppu.t, v.ppu.v, v.ppu.fineX, v.ppu.w)]) =
      [(0x0C0F, 0, 5, true), (0x6D6F, 0, 5, false), (0x3D6F, 0, 5, true), (0x3DF0, 0x3DF0, 5, false)] := by decide

/-- Vector M10, the data port: the read buffer delays a read by one. -/
theorem test_ppu_data :
    (let s := poked [(0x2006, 0x20), (0x2006, 0x00), (0x2007, 0xAA), (0x2007, 0xBB), (0x2006, 0x20), (0x2006, 0x00)] State.reset
     let a := busRead 0x2007 s
     let b := busRead 0x2007 a.2
     let c := busRead 0x2007 (poked [(0x2000, 0x04)] b.2)
     (a.1, b.1, c.1, c.2.ppu.v, c.2.ppu.readBuffer)) = (0x00, 0xAA, 0xBB, 0x2022, 0x00) := by decide

/-- Vector M10, the palette: `$3F10` folds onto `$3F00`, six bits are kept, and a read answers at once. -/
theorem test_ppu_palette :
    (let s := poked [(0x2006, 0x3F), (0x2006, 0x10), (0x2007, 0xFF), (0x2006, 0x3F), (0x2006, 0x00)] State.reset
     (s.ppu.palette, s.ppu.v, (busRead 0x2007 s).1 &&& 0x3F)) = ([(0, 0x3F)], 0x3F00, 0x3F) := by decide

/-- Vector M10, the scroll increments. -/
theorem test_ppu_increments :
    ([0x001F, 0x041F, 0x0005] : List (BitVec 15)).map incHoriz = [0x0400, 0x0000, 0x0006] ∧
      ([0x0000, 0x7000, 0x73A0, 0x7BA0, 0x73E0] : List (BitVec 15)).map incVert = [0x1000, 0x0020, 0x0800, 0x0000, 0x0000] := by decide

/-- Vector M10, the fetch addresses for `V = $6D6F`. -/
theorem test_ppu_fetch_addresses :
    ntAddr 0x6D6F = 0x2D6F ∧ atAddr 0x6D6F = 0x2FD3 ∧ atShift 0x6D6F = 6 ∧ bgPatAddr 0x10 0x42 0x6D6F = 0x1426 := by decide

/-- One dot from a raster position: where the raster goes, `frame` and `nmiOccurred` (R385, R389 to R391, R394). -/
def dotFrom (scanline dot frame : Nat) (mask : Byte) (nmi mute : Bool) : Nat × Nat × Nat × Bool :=
  let p : Ppu := { Ppu.powerOn with scanline := scanline, dot := dot, frame := frame, mask := mask, nmiOccurred := nmi, suppressVbl := mute }
  let q := (p.dotStep Buffers.blank 0 Cart.blank).1
  (q.scanline, q.dot, q.frame, q.nmiOccurred)

/-- The raster at the ends of lines and frames, and the skipped dot of an odd frame. -/
theorem test_raster :
    dotFrom 0 339 0 0 false false = (0, 340, 0, false) ∧ dotFrom 0 340 0 0 false false = (1, 0, 0, false) ∧
      dotFrom 261 340 0 0 false false = (0, 0, 0, false) ∧ dotFrom 261 339 1 0x08 false false = (0, 0, 1, false) ∧
      dotFrom 261 339 1 0 false false = (261, 340, 1, false) ∧ dotFrom 261 339 2 0x08 false false = (261, 340, 2, false) ∧
      dotFrom 240 0 6 0 false false = (240, 1, 7, false) := by decide

/-- The vertical-blank flag: set at (241, 1), muted or not, and cleared at (261, 1). -/
theorem test_vblank_flag :
    dotFrom 241 1 0 0 false false = (241, 2, 0, true) ∧ dotFrom 241 1 0 0 false true = (241, 2, 0, false) ∧
      dotFrom 261 1 0 0 true false = (261, 2, 0, false) ∧ dotFrom 241 0 0 0 false false = (241, 1, 0, false) := by decide

/-- Vector M9: the mixer, to six decimals. -/
theorem test_mixer :
    ([(mix 0 0 0 0 0, 0), (mix 15 0 0 0 0, 149377), (mix 15 15 0 0 0, 258483), (mix 0 0 15 0 0, 246412), (mix 0 0 0 0 127, 574264),
      (mix 15 15 15 15 127, 999999)] : List (Rat × Int)).all (fun c => (c.1 * 1000000 + 1 / 2).floor == c.2) = true := by decide +kernel

/-- Vector M11: eight reads of port 1 after the strobe, then ones; bits 7:5 come from the data bus. -/
theorem test_controller :
    (let s := poked [(0x4016, 0x01), (0x4016, 0x00)] (setInputController 0xA5 true State.reset)
     let r (s : State) := busRead 0x4016 { s with dbus := 0x40 }
     let a := r s; let b := r a.2; let c := r b.2; let d := r c.2; let e := r d.2; let f := r e.2; let g := r f.2; let h := r g.2; let i := r h.2
     [a.1, b.1, c.1, d.1, e.1, f.1, g.1, h.1, i.1]) = [0x41, 0x40, 0x41, 0x40, 0x40, 0x41, 0x40, 0x41, 0x41] := by decide

/-! ### Witnesses: states and operands that meet the hypotheses of the statements -/

/-- A `NOP` placed where the machine fetches first after reset. -/
def ready : State := State.reset.withFetchWord 8 0xEA

/-- The outcome is a next state. -/
def runs (o : Host.Outcome State Fault Refusal) : Bool := nextHas o (fun _ => true)

/-- An outcome that is a next state is some next state. -/
theorem exists_next {o : Host.Outcome State Fault Refusal} (h : runs o = true) : ∃ t, o = .next t := by
  cases o with
  | next t => exact ⟨t, rfl⟩
  | fault r => cases h
  | refused r => cases h

theorem ready_runs : ∃ t, step ready = .next t := exists_next (by decide)

theorem ready_cart : ready.CartInv := by
  unfold State.CartInv Cart.mapped
  decide

theorem test_witness_DecodeEncodeRoundTrip : (Instr.staAbx 0xFFFF).wf = true ∧ (Instr.jam02).wf = true := ⟨rfl, rfl⟩

theorem test_witness_EncodeDecodeRoundTrip :
    decode [0xEA, 0xFF] = .ok (.nop, [0xFF]) ∧ 3 ≤ [(0x20 : Byte), 0x34, 0x12].length ∧ decode [] = .error .noOpcode ∧
      decode [0x20, 0x34] = .error (.truncated 0x20) := ⟨rfl, by decide, rfl, rfl⟩

/-- A `JSR`, whose third byte the fetch only looks at. -/
theorem test_witness_StepRunsDecodedInstruction :
    ∃ (s : State) (bytes : List Byte) (i : Instr), s.fault = none ∧ decode bytes = .ok (i, []) ∧ bytes.length = 3 ∧
      ∀ (k : Nat) (b : Byte), bytes[k]? = some b → s.plainByte (s.cpu.pc + BitVec.ofNat 16 k) = some b := by
  refine ⟨State.reset.withFetchWord 24 0x123420, [0x20, 0x34, 0x12], .jsr 0x1234, by decide, rfl, rfl, ?_⟩
  intro k b h
  match k with
  | 0 => cases h; decide
  | 1 => cases h; decide
  | 2 => cases h; decide
  | k + 3 => simp at h

/-- Both outcomes of the check after the instruction occur: without an interrupt `ready` keeps its stack pointer; with an active NMI it pushes three bytes. -/
theorem test_witness_StepRunsDecodedInstruction_check :
    nextHas (step ready) (fun t => t.cpu.sp == 0xFD) = true ∧
      nextHas (step { ready with int := { ready.int with nmi := { pending := true, active := true } } }) (fun t => t.cpu.sp == 0xFA) = true := by
  decide

theorem test_witness_FaultedMachineStops : ({ ready with fault := some .configError } : State).fault = some .configError := rfl

/-- A header of one blank PRG bank and CHR RAM, mapper 1. -/
def header : List Byte := [0x4E, 0x45, 0x53, 0x1A, 1, 0, 0x10, 0, 0, 0, 0, 0, 0, 0, 0, 0]

theorem ofBytes_zeros (k n : Nat) : Memory.ofBytes k (List.replicate n 0) = [] := by
  induction n generalizing k with
  | zero => rfl
  | succ n ih => rw [List.replicate_succ, Memory.ofBytes, if_pos rfl]; exact ih _

theorem blank_image :
    initMachine Config.suggested Launch.blank (header ++ List.replicate 16384 0) =
      match powerOn Config.suggested Launch.blank ((Header.read header).cart (header ++ List.replicate 16384 0) (.mmc1 .powerOn)) Buffers.blank with
      | some s => .ok s
      | none => .error .configError := by
  have hr : Header.read (header ++ List.replicate 16384 0) = Header.read header := rfl
  have hok : (Header.read header).ok (header ++ List.replicate 16384 0) = true := by
    unfold Header.ok
    simp only [List.length_append, List.length_replicate]
    decide
  have hb : (Header.read header).buffers (header ++ List.replicate 16384 0) Launch.blank = Buffers.blank := by
    have hd : (header ++ List.replicate 16384 (0 : Byte)).drop (16 + (Header.read header).trainerLen) = List.replicate 16384 0 := rfl
    have hp : (Header.read header).prgUnits = 1 := by decide
    have hc : (Header.read header).chrUnits = 0 := by decide
    simp only [Header.buffers, hd, hp, hc, Nat.mul_one, List.take_replicate, Nat.min_self, ofBytes_zeros]
    rfl
  have hm : mapperOf (Header.read header).mapperNumber = some (.mmc1 .powerOn) := by decide
  unfold initMachine
  cases hp : powerOn Config.suggested Launch.blank ((Header.read header).cart (header ++ List.replicate 16384 0) (.mmc1 .powerOn)) Buffers.blank <;>
    simp only [hr, hok, hb, hm, hp, if_true]

/-- An image that makes a machine whose reset vector is plain memory, and one whose header is refused. -/
theorem test_witness_PowerOnState :
    (∃ (rom : List Byte) (s : State), initMachine Config.suggested Launch.blank rom = .ok s ∧ (Header.read rom).ok rom = true ∧
      s.plainByte 0xFFFC = some 0 ∧ s.plainByte 0xFFFD = some 0) ∧ (Header.read []).ok [] = false := by
  refine ⟨?_, by decide⟩
  have h : (match powerOn Config.suggested Launch.blank ((Header.read header).cart (header ++ List.replicate 16384 0) (.mmc1 .powerOn)) Buffers.blank with
    | some s => decide (s.plainByte 0xFFFC = some 0 ∧ s.plainByte 0xFFFD = some 0)
    | none => false) = true := by decide
  have e := blank_image
  refine ⟨header ++ List.replicate 16384 0, ?_⟩
  cases hp : powerOn Config.suggested Launch.blank ((Header.read header).cart (header ++ List.replicate 16384 0) (.mmc1 .powerOn)) Buffers.blank with
  | none => rw [hp] at h; cases h
  | some s =>
    rw [hp] at h e
    refine ⟨s, e, ?_, (of_decide_eq_true h).1, (of_decide_eq_true h).2⟩
    unfold Header.ok
    simp only [List.length_append, List.length_replicate]
    decide

/-- The other hypotheses of `PowerOnState`: a mapper number that is supported and one that is not, and the header test at its last byte, 15, with and without the NES 2.0 mark. -/
theorem test_witness_PowerOnState_headers :
    mapperOf (Header.read header).mapperNumber = some (.mmc1 .powerOn) ∧ mapperOf (Header.read (header.set 6 0x50)).mapperNumber = none ∧
      (Header.read ((header.set 7 0x08).set 15 1)).extended = true ∧ (Header.read ((header.set 7 0x08).set 8 1)).extended = true ∧
      (Header.read (header.set 7 0x08)).extended = false ∧ (Header.read (header.set 15 1)).extended = false ∧
      ready.CartInv ∧ ∃ t, step ready = .next t :=
  ⟨by decide, by decide, by decide, by decide, by decide, by decide, ready_cart, ready_runs⟩

/-- `reboot()` copies the image's trainer into PRG RAM again, clears the fault and starts from the new launch inputs (R529, R563). -/
theorem test_reboot_trainer :
    (match reboot Launch.blank { ready with fault := some .configError, cart := { ready.cart with trainer := [0xAA, 0xBB] }, cpu := { ready.cpu with a := 7 } } with
      | some t => t.mem.prgRam == [(0x1000, 0xAA), (0x1001, 0xBB)] && t.fault == none && t.cpu.a == 0 && t.clk.cyc == 7 && t.mem.ram == []
      | none => false) = true := by decide

/-- `unmap` of a sub-range, read back through the space, and its precondition (R61). -/
theorem test_unmap :
    ((Space.unmap? 65536 0x6000 0x400 resetCpuSpace).map fun sp => (sp.read Buffers.blank 0x63FF, sp.read Buffers.blank 0x6400)) = some (none, some 0) ∧
      Space.unmap? 65536 0x6001 0x400 resetCpuSpace = none ∧ Space.unmap? 65536 0xFC00 0x800 resetCpuSpace = none := by decide

/-- No fault and a fault; a warm reset's vector in plain memory; the clocks in step, no pending mode write, and `PC` just outside the PPU's window on both sides. -/
theorem test_witness_WarmResetState :
    ({ ready with fault := some .configError } : State).fault = some .configError ∧ ready.fault = none ∧ ready.CartInv ∧
      (warmReset ready).plainByte 0xFFFC = some 0 ∧ (warmReset ready).plainByte 0xFFFD = some 0 ∧
      ready.ClockInv ∧ 1 ≤ ready.clk.cyc ∧ ready.apu.seq.pendingDelay = 0 ∧
      ([0x1FFF, 0x4000] : List Word).all (fun a => !decide (0x2000 ≤ a.toNat ∧ a.toNat < 0x4000)) = true :=
  ⟨rfl, by decide, ready_cart, by decide, by decide, fun _ => by decide, by decide, by decide, by decide⟩

/-- What a warm reset keeps, clears and restarts, on values that differ from power-on; the kept 5-step mode clocks the linear counter (R562, R30, log entry 20). -/
theorem test_warm_reset :
    (let s : State := { ready with
       dma := { ready.dma with spritePage := 2 }
       ppu := { ready.ppu with v := 0x1234, oamAddr := 5, ctrl := 0x80, nmiOccurred := true, w := true, ioLatch := 0x55, readBuffer := 7 }
       apu := { ready.apu with
         seq := { ready.apu.seq with mode := true, cycle := 100, irqInhibit := true }
         tri := { ready.apu.tri with linearCounter := 3 } } }
     let t := warmReset s
     [(t.ppu.v.toNat, t.ppu.oamAddr.toNat, t.ppu.ioLatch.toNat), (t.ppu.ctrl.toNat, t.ppu.readBuffer.toNat, t.ppu.dot), (t.apu.seq.cycle, t.dma.spritePage.toNat, t.apu.tri.linearCounter.toNat)] ==
       [(0x1234, 5, 0x55), (0, 0, 21), (7, 0, 2)] && t.ppu.nmiOccurred && !t.ppu.w && t.apu.seq.mode && t.apu.seq.irqInhibit) = true := by decide

theorem test_witness_StepKeepsMemoryForm : ready.MemoryInv ∧ ∃ t, step ready = .next t :=
  ⟨⟨by decide, by decide⟩, ready_runs⟩

theorem test_witness_StepKeepsMapping : ready.CartInv ∧ ∃ t, step ready = .next t := ⟨ready_cart, ready_runs⟩

theorem test_witness_StepKeepsClocks : ready.ClockInv ∧ ready.fault = none ∧ ∃ t, step ready = .next t :=
  ⟨fun _ => by decide, by decide, ready_runs⟩

theorem test_witness_StepKeepsRanges : ready.RasterInv ∧ ready.SpriteInv ∧ ready.CounterInv ∧ ∃ t, step ready = .next t :=
  ⟨⟨by decide, by decide⟩, ⟨by decide, by decide, by decide⟩, ⟨by decide, by decide⟩, ready_runs⟩

/-- A state in which each of the three sources is masked. -/
def masked : State :=
  { ready with
    apu := { ready.apu with seq := { ready.apu.seq with irqInhibit := true } }
    cart := { ready.cart with mapper := .mmc3 .powerOn } }

theorem test_witness_StepKeepsMaskedIrqSilent :
    masked.MaskedIrqInv ∧ masked.apu.seq.irqInhibit = true ∧ masked.apu.dmc.irqEnabled = false ∧
      (∃ r, masked.cart.mapper = .mmc3 r ∧ r.irqEnabled = false) ∧ ∃ t, step masked = .next t := by
  refine ⟨⟨by decide, by decide, ?_⟩, by decide, by decide, ⟨.powerOn, rfl, rfl⟩, exists_next (by decide)⟩
  intro r h _
  have e : masked.cart.mapper = .mmc3 .powerOn := rfl
  rw [e] at h
  cases h
  rfl

/-- A legal instruction and a `JAM`. -/
theorem test_witness_OnlyJamFaults :
    ready.CartInv ∧ ready.fault = none ∧ (fetchInstr ready).1 ∉ jamForms.map Prod.fst ∧
      (State.reset.withFetchWord 8 0x92).CartInv ∧ (State.reset.withFetchWord 8 0x92).fault = none ∧
      ((fetchInstr (State.reset.withFetchWord 8 0x92)).1, (0x92 : Byte)) ∈ jamForms := by
  refine ⟨ready_cart, by decide, by decide, ?_, by decide, by decide⟩
  unfold State.CartInv Cart.mapped
  decide

/-- The cartridge `c` with its tables as `Remap` computes them, in the machine `ready`. -/
def withCart (c : Cart) : State := { ready with cart := (c.remap).getD c }

/-- A cartridge with CHR ROM. -/
theorem test_witness_RomNeverChanges :
    (withCart { Cart.blank with chrUnits := 1 }).CartInv ∧ (withCart { Cart.blank with chrUnits := 1 }).cart.chrIsRam = false ∧
      ∃ t, step (withCart { Cart.blank with chrUnits := 1 }) = .next t := by
  refine ⟨?_, by decide, exists_next (by decide)⟩
  unfold State.CartInv Cart.mapped
  decide

/-- `FlagWriters` and `PointerWriters`: an instruction that writes every flag and `S` completes. -/
theorem test_witness_FlagWriters : ∃ t, exec .plp ready = .next t := exists_next (by decide)

theorem test_witness_PointerWriters : ∃ t, exec .brk ready = .next t := exists_next (by decide)

theorem test_witness_CycleTable :
    ready.fault = none ∧ ready.CartInv ∧ ready.quiet ∧
      nextHas (exec (fetchInstr ready).1 (fetchInstr ready).2) (fun t => !t.int.nmi.active && !t.int.irq.active) = true :=
  ⟨by decide, ready_cart, ⟨by decide, by decide⟩, by decide⟩

/-- The operand of a read instruction is found: an immediate one, one in work RAM, one in PRG ROM (`Loads`, `AddSubtract`, `Logic`, `CompareAndTest`, `NoOperations`, `StableIllegalLoads`, `StableIllegalImmediates`). -/
theorem test_witness_finds :
    ready.finds (.imm 0x80) 0x80 ∧ ready.finds (.mem (.zp 0)) 0xEA ∧ ready.finds (.mem (.abs 0x0800)) 0xEA ∧
      ready.finds (.mem (.abx 0xFFFF)) 0 :=
  ⟨rfl, ⟨by decide, by decide⟩, ⟨by decide, by decide⟩, ⟨by decide, by decide⟩⟩

/-- The clauses of `Stores` and of the read-modify-write statements, which also ask for a legal cartridge and an address in work RAM. -/
theorem test_witness_stores : ready.fault = none ∧ ready.CartInv ∧ ready.mem.wf = true ∧ (ready.effective (.zp 0xFF)).toNat < 0x2000 :=
  ⟨by decide, ready_cart, by decide, by decide⟩

/-- The pointer of an indirect jump in plain memory, at the end of a page. -/
theorem test_witness_Jumps :
    ready.fault = none ∧ ready.plainByte 0x02FF = some 0 ∧ ready.plainByte (word (hi 0x02FF) (lo 0x02FF + 1)) = some 0 := by decide

theorem test_witness_Subroutines :
    ready.fault = none ∧ nextHas (exec (.jsr 0x1234) ready) (fun t => decide (({ ready with mem := t.mem } : State).plainByte ready.cpu.pc = some 0xEA)) = true := by
  decide

theorem test_witness_CallThenReturn : ready.fault = none ∧ ready.mem.wf = true ∧ ∃ t, exec (.jsr 0x1234) ready = .next t :=
  ⟨by decide, by decide, exists_next (by decide)⟩

/-- The forms a pushing instruction is stated for, and the premise of the pulls. -/
theorem test_witness_Pushes_Pulls :
    (Instr.php, ready.cpu.p.toByte true) ∈ [(Instr.pha, ready.cpu.a), (Instr.php, ready.cpu.p.toByte true)] ∧ ready.fault = none := by decide

/-- The vectors of `SoftwareInterrupt` and `InterruptEntry` in plain memory, for either vector. -/
theorem test_witness_SoftwareInterrupt :
    ready.fault = none ∧ ([0xFFFA, 0xFFFB, 0xFFFE, 0xFFFF] : List Word).all (fun a =>
      decide ((({ ready with mem := ready.entryMem true } : State)).plainByte a = some 0)) = true := by decide

theorem test_witness_ReturnFromInterrupt : ready.fault = none := by decide

theorem test_witness_InterruptEntry :
    ({ ready with int := { ready.int with nmi := { pending := true, active := false } } } : State).int.nmi.pending = true ∧
      ready.int.nmi.pending = false := by decide

theorem test_witness_InterruptThenReturn : ready.fault = none ∧ ready.mem.wf = true ∧ ∃ t, exec .brk ready = .next t :=
  ⟨by decide, by decide, exists_next (by decide)⟩

/-- An unstable store without and with a page crossing. -/
theorem test_witness_UnstableStores :
    ready.fault = none ∧ ready.mem.wf = true ∧ ready.pageCrossed (.aby 0x04F8) = false ∧
      ({ ready with cpu := { ready.cpu with y := 0x10 } } : State).pageCrossed (.aby 0x04F8) = true := by decide

theorem test_witness_JamFaults :
    (Instr.jamF2, (0xF2 : Byte)) ∈ jamForms ∧ (State.reset.withFetchWord 8 0xF2).fault = none ∧
      (State.reset.withFetchWord 8 0xF2).dma.haltReq = false ∧
      (State.reset.withFetchWord 8 0xF2).plainByte (State.reset.withFetchWord 8 0xF2).cpu.pc = some 0xF2 := by decide

theorem test_witness_InterruptSampling :
    ({ ready with int := { ready.int with prevNmiLine := true } } : State).int.nmi = { pending := false, active := false } ∧
      ({ ready with int := { ready.int with prevNmiLine := true } } : State).int.prevNmiLine = true := by decide

/-- Every `PPU_OFFSET`, and a write that does not fault. -/
theorem test_witness_BusCycleTiming : ([0, 1, 2, 3] : List (Fin 4)).all (fun k =>
    let s : State := { ready with cfg := { ready.cfg with ppuOffset := k }, clk := { ready.clk with ppuClk := 4 * ((84 - k.val) / 4) } }
    decide (s.clk.mclk = 12 * s.clk.cyc ∧ s.clk.ppuClk = 4 * ((s.clk.mclk - s.cfg.ppuOffset.val) / 4) ∧ 1 ≤ s.clk.cyc) &&
      decide ((writeCycle 0 0 s).fault = none)) = true := by decide

/-- The frame sequencer one cycle before, at and after its clocks and its interrupt, in both modes, and where a delayed mode write ends or does not. -/
theorem test_witness_BusCycleTiming_sequencer :
    (let at_ (mode : Bool) (n : Nat) : Apu := ({ Apu.powerOn with
       seq := { Apu.powerOn.seq with mode := mode, cycle := n - 1 }
       tri := { Apu.powerOn.tri with linearCounter := 9 } } : Apu).sequencerStep
     (([7456, 7457, 14913, 22371, 29828, 29829, 29830] : List Nat).map fun n => ((at_ false n).tri.linearCounter.toNat, (at_ false n).seq.cycle, (at_ false n).seq.irqFlag),
      ([29829, 37280, 37281, 37282] : List Nat).map fun n => ((at_ true n).tri.linearCounter.toNat, (at_ true n).seq.cycle, (at_ true n).seq.irqFlag))) =
    ([(9, 7456, false), (8, 7457, false), (8, 14913, false), (8, 22371, false), (9, 29828, true), (8, 29829, true), (9, 0, true)],
     [(9, 29829, false), (9, 37280, false), (8, 37281, false), (9, 0, false)]) := by decide

/-- A delayed mode write with two cycles to go, which does nothing yet, and with one, which applies the 5-step mode (R464, R465). -/
theorem test_witness_BusCycleTiming_delay :
    (let a (d : Nat) : Apu := { Apu.powerOn with
       seq := { Apu.powerOn.seq with cycle := 50, pendingDelay := d, pendingValue := 0x80 }, tri := { Apu.powerOn.tri with linearCounter := 9 } }
     ((a 2).seq.pendingDelay ≠ 1, ((a 2).sequencerStep.seq.cycle, (a 2).sequencerStep.seq.mode, (a 2).sequencerStep.tri.linearCounter.toNat),
      ((a 1).sequencerStep.seq.cycle, (a 1).sequencerStep.seq.mode, (a 1).sequencerStep.tri.linearCounter.toNat))) = (True, (51, false, 9), (1, true, 8)) := by
  simp only [ne_eq, Prod.mk.injEq, eq_iff_iff, iff_true]
  decide

/-- A sprite transfer requested, from an odd and from an even cycle. -/
theorem test_witness_SpriteDmaCost : ([12, 13] : List Nat).all (fun n =>
    let s : State := { ready with dma := ready.dma.startSprite 2, clk := { ready.clk with cyc := n } }
    s.dma.spriteActive && !s.dma.dmcActive && decide (s.apu.dmc.bytesRemaining = 0)) = true := by decide

/-- A sample fetch requested, with `n` bytes left of a sample at `$FFFF`. -/
def fetching (n : BitVec 12) (loop : Bool) : State :=
  { ready with
    dma := { haltReq := true, spriteActive := false, spritePage := 0, dmcActive := true, dmcWait := 2 }
    apu := { ready.apu with
      dmc := { ready.apu.dmc with bytesRemaining := n, curAddr := 0xFFFF, loop := loop, irqEnabled := true, sampleAddrReg := 1, sampleLenReg := 2, timer := 400 } } }

/-- The sample fetch with no byte, one and two left, looping or not: the bytes left, the next address and the interrupt, as R468 and R469 give them. -/
theorem test_witness_SpriteDmaCost_samples :
    (fetching 2 false).dma.spriteActive = false ∧ (fetching 2 false).dma.dmcActive = true ∧ (fetching 2 false).dma.dmcWait = 2 ∧
      (fetching 2 false).plainByte 0xFFFF = some 0 ∧ 1 < (fetching 2 false).apu.dmc.bytesRemaining.toNat ∧
      ([(0, false), (1, false), (1, true), (2, false)] : List (BitVec 12 × Bool)).map (fun c =>
        let d := (runDma 0 (fetching c.1 c.2)).apu.dmc
        (d.bytesRemaining.toNat, d.curAddr.toNat, d.irqFlag, d.bufferFull)) =
        [(0, 0xFFFF, false, false), (0, 0x8000, true, true), (33, 0xC040, false, true), (1, 0x8000, false, true)] := by decide

/-- The output unit at the end of its timer: with its last bit and a full buffer it takes the buffer and asks for a byte; otherwise it does not (R103, R467). -/
theorem test_witness_SpriteDmaCost_output :
    ([(0, 1, true), (0, 1, false), (0, 2, true), (1, 1, true)] : List (BitVec 9 × Nat × Bool)).map (fun c =>
      let t := apuCycle { ready with apu := { ready.apu with
        dmc := { ready.apu.dmc with timer := c.1, bitsRemaining := c.2.1, bufferFull := c.2.2, bytesRemaining := 1, sampleBuffer := 0xA5 } } }
      (t.dma.dmcActive, t.apu.dmc.shiftReg.toNat, t.apu.dmc.silence)) =
      [(true, 0xA5, false), (false, 0, true), (false, 0, true), (false, 0, true)] := by decide

/-- The corners of the raster. -/
theorem test_witness_RasterAndVblankDots : ([(0, 0), (261, 340), (241, 1), (261, 1), (240, 0), (261, 339)] : List (Nat × Nat)).all (fun c =>
    let p : Ppu := { Ppu.powerOn with scanline := c.1, dot := c.2 }
    decide (p.scanline < 262 ∧ p.dot < 341)) = true := by decide

/-- A picture processor that renders both layers on scanline 10, with sprites `n` at `l` in OAM covering it. -/
def drawing (dot : Nat) (oam : Memory) : Ppu :=
  { Ppu.powerOn with scanline := 10, dot := dot, mask := 0x1E, oam := oam, palette := [(1, 0x11), (0x11, 0x21)] }

/-- `n` sprites whose Y byte is 10, from number 0 on; the others are at 0. -/
def rowOf (n : Nat) : Memory := (List.range n).map fun k => (4 * k, 0x0A)

/-- Hypotheses of the sprite and pixel clauses: rendering, canonical form, the first and the last pixel dot; and what selection answers for eight and nine sprites in range, and for the ninth found as a tile byte (R411, R412). -/
theorem test_witness_RasterAndVblankDots_sprites :
    (drawing 1 []).rendering = true ∧ (drawing 257 []).secOam.wf = true ∧ Pixels.wf (drawing 256 []).pixels = true ∧
      ({ drawing 256 [] with mask := 0 } : Ppu).rendering = false ∧
      ([rowOf 0, rowOf 1, rowOf 8, rowOf 9, rowOf 8 ++ [(37, 0x0A)]] : List Memory).map (fun m =>
        let q := ((drawing 257 m).dotStep Buffers.blank 0 Cart.blank).1
        (q.sprNextCount, q.sprNextHasZero, q.spriteOverflow, q.secOam.read 0)) =
      [(0, false, false, 0xFF), (1, true, false, 0x0A), (8, true, false, 0x0A), (8, true, true, 0x0A), (8, true, true, 0x0A)] := by decide

/-- Dot 321 with one sprite selected, tile 1 at Y = 10, its attribute byte `attr`. -/
def loading (attr : Byte) : Ppu :=
  { drawing 321 [] with sprNextCount := 1, sprNextHasZero := true, secOam := [(0, 0x0A), (1, 0x01), (2, attr), (3, 0x20)] }

/-- Unit loading at dot 321: horizontal flip reverses the pattern, vertical flip takes the last row first, and a unit not in use is blank (R413). -/
theorem test_witness_RasterAndVblankDots_load :
    (loading 0).covers 10 0x0A = true ∧
      ([0, 0x40, 0x80] : List Byte).map (fun attr =>
        let q := ((loading attr).dotStep { Buffers.blank with chr := [(0x10, 0x80), (0x17, 0x03), (0x18, 0x40)] } 0 Cart.blank).1
        let u := q.sprites.getD 0 .zero
        (q.sprCount, u.patLo.toNat, u.patHi.toNat, u.x.toNat, u.isZero, (q.sprites.getD 7 .zero).patLo.toNat)) =
        [(1, 0x80, 0x40, 0x20, true, 0), (1, 0x01, 0x02, 0x20, true, 0), (1, 0x03, 0, 0x20, true, 0)] := by decide

/-- One pixel at column `x` with background pixel 1 and sprite 0 showing pixel 1: the stored colour and the hit, in front, behind, at column 255, and at column 0 with the left column hidden (R414 to R418). -/
theorem test_witness_RasterAndVblankDots_pixel :
    ([(8, 0, 0x1E), (8, 0x20, 0x1E), (255, 0, 0x1E), (0, 0, 0x18), (8, 0, 0x00)] : List (Nat × Byte × Byte)).map (fun c =>
      let q := (({ drawing (c.1 + 1) [] with
        mask := c.2.2, bgShiftLo := 0x8000, sprCount := 1
        sprites := [{ patLo := 0x80, patHi := 0, attr := c.2.1, x := BitVec.ofNat 8 c.1, isZero := true }] } : Ppu).dotStep Buffers.blank 0 Cart.blank).1
      ((Pixels.read q.pixels (2560 + c.1)).toNat / 8, q.spriteZeroHit)) =
      [(0x21, true), (0x11, true), (0x21, false), (0, false), (0, false)] := by decide

/-- The first and the last address of the PPU's window, each register of the clauses, and both values of the toggle. -/
theorem test_witness_PpuControlPorts :
    ready.fault = none ∧ ready.ppu.w = false ∧ ({ ready.ppu with w := true } : Ppu).w = true ∧ ready.ppu.rendering = false ∧
      ([0x2000, 0x3FF8, 0x2001, 0x3FF9, 0x2005, 0x3FFD, 0x2006, 0x3FFE] : List Word).map (fun a => a.toNat % 8) = [0, 0, 1, 1, 5, 5, 6, 6] ∧
      ([0x2000, 0x3FFE] : List Word).all (fun a => decide (0x2000 ≤ a.toNat ∧ a.toNat < 0x4000)) = true := by decide

/-- The data port below and inside the palette, and an attribute byte of OAM. -/
theorem test_witness_PpuDataPorts :
    ready.fault = none ∧ ready.ppu.rendering = false ∧ ({ ready.ppu with oamAddr := 2 } : Ppu).oamAddr.toNat % 4 = 2 ∧
      ([0x3EFF, 0x3F00] : List (BitVec 15)).map (fun v => decide (v.toNat % 16384 < 0x3F00)) = [true, false] ∧
      ([0x2003, 0x2004, 0x3FFF] : List Word).map (fun a => a.toNat % 8) = [3, 4, 7] ∧ ready.dma.haltReq = false ∧
      (Cart.blank.ppuSpace.read Buffers.blank 0x3EFF = some 0 ∧ Cart.blank.ppuSpace.read Buffers.blank 0x2F00 = some 0) := by decide

/-- A load from `PPUDATA` below the palette answers the buffer, which takes the nametable byte; in the palette it answers the entry, and the buffer takes the byte under it (R408). -/
theorem test_ppu_data_loads :
    ([0x2005, 0x3F05] : List (BitVec 15)).map (fun v =>
      match exec (.ldaAbs 0x2007) { ready with
        mem := { ready.mem with vram := [(5, 0x77), (0x705, 0x66)] }
        ppu := { ready.ppu with v := v, readBuffer := 0x44, ioLatch := 0x80, palette := [(5, 0x15)] } } with
      | .next t => (t.cpu.a.toNat, t.ppu.readBuffer.toNat, t.ppu.v.toNat)
      | _ => (0, 0, 0)) = [(0x44, 0x77, 0x2006), (0x95, 0x66, 0x3F06)] := by decide

theorem test_witness_StatusPortRead :
    ready.fault = none ∧ ready.dma.haltReq = false ∧
      ([0x2002, 0x3FFA] : List Word).all (fun a => decide (0x2000 ≤ a.toNat ∧ a.toNat < 0x4000 ∧ a.toNat % 8 = 2)) = true := by decide

/-- The machine `ready` with the raster at (`scanline`, `dot`). -/
def rasterAt (scanline dot : Nat) : State := { ready with ppu := { ready.ppu with scanline := scanline, dot := dot } }

/-- A status load whose access finds (240, 340), (241, 0), (241, 1) or (241, 2) next, two dots to follow: they set the flag only after the second, and the load sees it only in the last (R391, R392). -/
theorem test_witness_StatusPortRead_muted :
    (rasterAt 240 340).ClockInv ∧ 1 ≤ (rasterAt 240 340).clk.cyc ∧ (rasterAt 240 340).RasterInv ∧
      ([(240, 339), (240, 340), (241, 0), (241, 1)] : List (Nat × Nat)).map (fun c =>
        let s : State := { rasterAt c.1 c.2 with clk := { ready.clk with ppuClk := 84 }, cfg := { ready.cfg with ppuOffset := 0 } }
        match exec (.ldaAbs 0x2002) s with
        | .next t => (t.cpu.a.getLsbD 7, t.ppu.nmiOccurred, (startTick .read s).ppu.dot)
        | _ => (false, false, 999)) =
      [(false, false, 340), (false, true, 0), (false, false, 1), (true, false, 2)] := by
  refine ⟨fun _ => by decide, by decide, ⟨by decide, by decide⟩, by decide⟩

/-- The reading of R571 (b): a status load whose access finds (241, 0) next mutes the vertical blank if (241, 1) falls in its second half-step, as it does at offset 0 and not at offset 1; in R403's reading it does not. -/
theorem test_witness_StatusPortRead_window :
    ([(0, .secondHalf), (1, .secondHalf), (0, .nextDot)] : List (Fin 4 × MuteWindow)).map (fun c =>
      let s : State := { rasterAt 240 (340 - c.1.val) with
        clk := { ready.clk with ppuClk := 4 * ((84 - c.1.val) / 4) }, cfg := { ready.cfg with ppuOffset := c.1, muteWindow := c.2 } }
      let p := (startTick .read s).ppu
      let q := (busRead 0x2002 (startTick .read s)).2.ppu
      match exec (.ldaAbs 0x2002) s with
      | .next t => (p.scanline, p.dot, q.suppressVbl, t.ppu.nmiOccurred, t.ppu.suppressVbl)
      | _ => (0, 999, false, false, false)) =
      [(241, 0, true, false, false), (241, 0, false, false, false), (241, 0, false, true, false)] := by decide

/-- Bit 4 of `$4015` with an empty channel, its buffer empty and full, a request outstanding, and with bytes left; the length at both ends of its register (R462, R468). -/
theorem test_witness_ApuAndDmaPortStores_sample :
    (0x10 : Byte).getLsbD 4 = true ∧
      ([(0, false, false, 0), (0, true, false, 0xFF), (0, false, true, 1), (7, false, false, 0)] : List (BitVec 12 × Bool × Bool × Byte)).map (fun c =>
        match exec (.staAbs 0x4015) { ready with
          cpu := { ready.cpu with a := 0x10 }
          dma := { ready.dma with dmcActive := c.2.2.1 }
          apu := { ready.apu with dmc := { ready.apu.dmc with bytesRemaining := c.1, bufferFull := c.2.1, sampleLenReg := c.2.2.2, sampleAddrReg := 2 } } } with
        | .next t => (t.apu.dmc.bytesRemaining.toNat, t.apu.dmc.curAddr.toNat, t.dma.dmcActive, t.dma.haltReq)
        | _ => (0, 0, false, false)) =
      [(1, 0xC080, true, true), (4081, 0xC080, false, false), (17, 0xC080, true, false), (7, 0, false, false)] := by decide

/-- The first and the last channel register of `Apu.written`, and one past it; the load of `$4015` with no request pending. -/
theorem test_witness_ApuAndDmaPortStores_channels :
    ((startTick .write ready).apu.written 0xBF)[0]?.isSome = true ∧ ((startTick .write ready).apu.written 0xBF)[19]?.isSome = true ∧
      ((startTick .write ready).apu.written 0xBF)[20]? = none ∧ ready.dma.haltReq = false ∧ ready.cfg.cpuOpenBus ≠ .anyValue := by decide

/-- Writes to the channel registers, fields by hand from R455 to R460. -/
theorem test_channel_registers :
    (let a := (poked [(0x4015, 0x0F), (0x4000, 0xBF), (0x4002, 0x34), (0x4003, 0x1A), (0x400A, 0xFF), (0x400B, 0x07), (0x400E, 0x83)] State.reset).apu
     (a.sq1.duty.toNat, a.sq1.env.period.toNat, a.sq1.timerPeriod.toNat, a.sq1.len.value.toNat, a.sq1.env.start, a.tri.timerPeriod.toNat, a.noise.periodIndex.toNat)) =
      (2, 15, 0x234, 2, true, 0x7FF, 3) := by decide

/-- Bits set and clear of the values the port stores look at. -/
theorem test_witness_ApuAndDmaPortStores :
    ready.fault = none ∧ (0x41 : Byte).getLsbD 0 = true ∧ (0x41 : Byte).getLsbD 6 = true ∧
      ([0, 1, 2, 3, 4] : List Nat).all (fun k => !(0 : Byte).getLsbD k) = true := by decide

theorem test_witness_ControllerReads : (0x01 : Byte).getLsbD 0 = true ∧ (0xFE : Byte).getLsbD 0 = false ∧ ¬ 8 < 8 ∧ 7 < 8 := by decide

/-- A UxROM cartridge of five banks, at both ends of the mapper's window; a store selects its bank. -/
theorem test_witness_UxromSelectsBank :
    (withCart { Cart.blank with mapper := .uxrom 0, prgUnits := 5 }).fault = none ∧
      (withCart { Cart.blank with mapper := .uxrom 0, prgUnits := 5 }).CartInv ∧
      (withCart { Cart.blank with mapper := .uxrom 0, prgUnits := 5 }).cart.mapper = .uxrom 0 ∧ 0x8000 ≤ (0x8000 : Word).toNat ∧
      nextHas (exec (.staAbs 0xFFFF) { withCart { Cart.blank with mapper := .uxrom 0, prgUnits := 5 } with cpu := { ready.cpu with a := 6 } })
        (fun t => t.cart.cpuSpace.getD 32 none == some ⟨.prg, 16384, false⟩ && t.cart.cpuSpace.getD 48 none == some ⟨.prg, 65536, false⟩) = true := by
  refine ⟨by decide, ?_, rfl, by decide, by decide⟩
  unfold State.CartInv Cart.mapped
  decide

/-- A cartridge of each mapper, its tables as `Remap` computes them. -/
theorem test_witness_UxromSelectsBank_mappers :
    ([.nrom, .mmc1 .powerOn, .uxrom 3, .cnrom 3, .mmc3 .powerOn, .axrom 3] : List Mapper).all (fun m =>
      let s := withCart { Cart.blank with mapper := m, prgUnits := 2, chrUnits := 1 }
      s.cart.sized && decide (s.cart.remap = some s.cart)) = true := by decide

/-- Banks at `$8000` and `$C000` by hand from R530 to R535: NROM, MMC1 in its power-on mode and in mode 1, CNROM, MMC3, AxROM; and 32 KiB windows of a one-unit ROM, both halves the same (log entry 6). -/
theorem test_windows :
    ([(.nrom, 2, 0x8000, 0xC000), (.mmc1 { Mmc1.powerOn with prg := 1 }, 4, 0x8000, 0xC000), (.mmc1 { Mmc1.powerOn with prg := 3, control := 4 }, 4, 0x8000, 0xC000),
      (.cnrom 1, 1, 0x8000, 0xC000), (.mmc3 .powerOn, 2, 0xA000, 0xE000), (.axrom 0x11, 4, 0x8000, 0xC000),
      (.axrom 5, 1, 0x8000, 0xC000), (.mmc1 { Mmc1.powerOn with prg := 3, control := 0 }, 1, 0x8000, 0xC000)] : List (Mapper × Nat × Nat × Nat)).map (fun c =>
        let sp := (withCart { Cart.blank with mapper := c.1, prgUnits := c.2.1 }).cart.cpuSpace
        ((sp.bank c.2.2.1).map Bank.off, (sp.bank c.2.2.2).map Bank.off)) =
      [(some 0, some 0x4000), (some 0x4000, some 0xC000), (some 0x8000, some 0xC000), (some 0, some 0), (some 0, some 0x6000),
       (some 0x8000, some 0xC000), (some 0, some 0), (some 0, some 0)] := by decide

/-- Stores that reach NROM, CNROM and AxROM, and MMC1 and MMC3, from both ends of the mapper's window; MMC1 in the cycle after a write and not. -/
theorem test_witness_mapper_stores :
    ([.nrom, .cnrom 0, .axrom 0, .mmc1 .powerOn, .mmc1 { Mmc1.powerOn with lastWriteCyc := 7 }, .mmc3 .powerOn] : List Mapper).map (fun m =>
      match exec (.staAbs 0xFFFF) { withCart { Cart.blank with mapper := m, prgUnits := 2 } with cpu := { ready.cpu with a := 3 } } with
      | .next t => t.cart.mapper
      | _ => .nrom) =
      [.nrom, .cnrom 3, .axrom 3, .mmc1 { Mmc1.powerOn with shiftReg := 0x10, shiftCount := 1, lastWriteCyc := 8 },
       .mmc1 { Mmc1.powerOn with lastWriteCyc := 8 }, .mmc3 { Mmc3.powerOn with irqEnabled := true }] := by decide

/-- An MMC1, a value with bit 7, values without it, and five writes that load each of the four registers, the first bit lowest. -/
theorem test_witness_Mmc1SerialLoad :
    (withCart { Cart.blank with mapper := .mmc1 .powerOn }).cart.mapper = .mmc1 .powerOn ∧ (0x80 : Byte).getLsbD 7 = true ∧
      (0x7F : Byte).getLsbD 7 = false ∧ Mmc1.powerOn.shiftCount = 0 ∧
      ([(0x8000, (0x16, 0, 0, 0)), (0x9FFF, (0x16, 0, 0, 0)), (0xA000, (0x0C, 0x16, 0, 0)), (0xDFFF, (0x0C, 0, 0x16, 0)), (0xFFFF, (0x0C, 0, 0, 0x16))]
        : List (Word × BitVec 5 × BitVec 5 × BitVec 5 × BitVec 5)).all (fun c =>
          let q := ([0, 1, 1, 0, 1] : List Byte).foldl (fun r v => r.load 0 c.1 v) Mmc1.powerOn
          (q.control, q.chr0, q.chr1, q.prg) == c.2) = true := by decide

/-- MMC3's eight registers, at both ends of each address window (R535). -/
theorem test_witness_Mmc3ScanlineCounter_registers :
    ([0x8000, 0x9FFF, 0xA000, 0xBFFF, 0xC000, 0xDFFF, 0xE000, 0xFFFF] : List Word).map (fun a => ({ Mmc3.powerOn with irqFlag := true, bankSelect := 7 } : Mmc3).load a 0xFF) =
      (let r : Mmc3 := { Mmc3.powerOn with irqFlag := true, bankSelect := 7 }
       [{ r with bankSelect := 0xFF }, { r with regs := [0, 0, 0, 0, 0, 0, 0, 0xFF] }, { r with mirror := true }, { r with ramProtect := 0xFF },
        { r with irqLatch := 0xFF }, { r with irqReload := true }, { r with irqFlag := false }, { r with irqEnabled := true }]) := by decide

/-- The clauses of the scanline counter: clocked with the counter zero, with a reload request, and counting down to its flag; not clocked nine dots after the fall. -/
theorem test_witness_Mmc3ScanlineCounter :
    (let r : Mmc3 := { Mmc3.powerOn with irqLatch := 5, irqEnabled := true, a12LowSince := 20 }
     [((r.watch 30 0x1000).irqCounter, (r.watch 30 0x1000).irqFlag),
      (({ r with irqCounter := 3, irqReload := true }.watch 30 0x1FFF).irqCounter, ({ r with irqCounter := 3, irqReload := true }.watch 30 0x1FFF).irqReload),
      (({ r with irqCounter := 1 }.watch 30 0x1000).irqCounter, ({ r with irqCounter := 1 }.watch 30 0x1000).irqFlag),
      (({ r with irqCounter := 3 }.watch 29 0x1000).irqCounter, ({ r with irqCounter := 3 }.watch 29 0x1000).irqFlag)]) =
      [(5, false), (5, false), (0, true), (3, false)] := by decide

end Sys2Proof.Tests
end

section
/-! SUPPORT. Who writes `S` and `PC`, and that no instruction changes the launch parameters or the host's buttons. -/

namespace Sys2Proof.Machine

/-! ### The launch parameters and the host's buttons (R9, R371) -/

/-- The launch parameters and the host's buttons of `t` are those of `s`. -/
structure SameHost (s t : State) : Prop where
  cfg : t.cfg = s.cfg
  buttons0 : t.pads.buttons0 = s.pads.buttons0
  buttons1 : t.pads.buttons1 = s.pads.buttons1

theorem sameHost_keeps (s : State) : Keeps (SameHost s) :=
  .mk' (fun {t} h a =>
      have f := memRead_frame a t
      ⟨f.cfg.trans h.cfg, f.buttons0.trans h.buttons0, f.buttons1.trans h.buttons1⟩)
    (fun {t} h a v =>
      have f := memWrite_frame a v t
      ⟨f.cfg.trans h.cfg, f.buttons0.trans h.buttons0, f.buttons1.trans h.buttons1⟩)
    (fun h _ _ _ => ⟨h.cfg, h.buttons0, h.buttons1⟩)

/-- No instruction changes the launch parameters or the host's buttons; a `JAM` changes the fault record alone. -/
theorem exec_sameHost {i : Instr} {s t : State} (he : exec i s = .next t) : SameHost s t := by
  obtain ⟨u, hu, h⟩ := (sameHost_keeps s).exec i ⟨rfl, rfl, rfl⟩ (fun _ _ => ⟨rfl, rfl, rfl⟩)
  cases he.symm.trans hu
  exact h

/-! ### `S` and `PC` through the templates -/

/-- An effect on the registers that leaves `S` and `PC` alone. -/
def KeepsPointers (f : Cpu → Cpu) : Prop := ∀ c, (f c).sp = c.sp ∧ (f c).pc = c.pc

/-- `S` and `PC` of `t` are those of `s`. -/
def SamePointers (s t : State) : Prop := t.cpu.sp = s.cpu.sp ∧ t.cpu.pc = s.cpu.pc

theorem SamePointers.of_cpu {s t : State} (h : t.cpu = s.cpu) : SamePointers s t := ⟨congrArg Cpu.sp h, congrArg Cpu.pc h⟩

theorem readInstr_pointers {f : Byte → Cpu → Cpu} (hf : ∀ m, KeepsPointers (f m)) (o : Operand) (s : State) :
    SamePointers s (readInstr f o s) := by
  unfold SamePointers
  rw [readInstr_cpu]
  exact hf _ _

theorem impliedInstr_pointers {f : Cpu → Cpu} (hf : KeepsPointers f) (s : State) : SamePointers s (impliedInstr f s) := by
  unfold SamePointers
  rw [impliedInstr_cpu]
  exact hf _

/-- A read-modify-write instruction writes the flags and what `g` writes, or after a fault in one of its writes nothing. -/
theorem rmwInstr_cpu (f : Byte → Flags → Byte × Flags) (g : Byte → Cpu → Cpu) (m : MemMode) (s : State) :
    (rmwInstr f g m s).cpu = s.cpu ∨ ∃ r p, (rmwInstr f g m s).cpu = g r { s.cpu with p := p } := by
  have hc := (storeAddress_frame m s).cpu
  unfold rmwInstr
  dsimp only
  split
  · exact .inl (by simp [hc])
  · simp only [State.setCpu_cpu, memWrite_cpu, memRead_cpu, hc]
    exact .inr ⟨_, _, rfl⟩

theorem rmwInstr_pointers {f : Byte → Flags → Byte × Flags} {g : Byte → Cpu → Cpu} (hg : ∀ r, KeepsPointers (g r)) (m : MemMode)
    (s : State) : SamePointers s (rmwInstr f g m s) := by
  obtain e | ⟨r, p, e⟩ := rmwInstr_cpu f g m s
  · exact .of_cpu e
  · unfold SamePointers
    rw [e]
    exact hg r _

/-! ### Who writes `S` and `PC` (R21, R23) -/

/-- From `s` to `t` the instruction `i` changes `S` only if it is a stack writer, and `PC` only if it is a jump, call, return or branch. -/
def PointersByWriters (i : Instr) (s t : State) : Prop :=
  (t.cpu.sp = s.cpu.sp ∨ ∃ a, i ∈ stackWriters a) ∧ (t.cpu.pc = s.cpu.pc ∨ ∃ d a, i ∈ pcWriters d a s.cpu.p)

theorem PointersByWriters.of_same {i : Instr} {s t : State} (h : SamePointers s t) : PointersByWriters i s t := ⟨.inl h.1, .inl h.2⟩

/-- A stack writer, which must leave `PC` alone. -/
theorem PointersByWriters.of_stack {i : Instr} {s t : State} (a : Word) (hi : i ∈ stackWriters a) (h : t.cpu.pc = s.cpu.pc) :
    PointersByWriters i s t := ⟨.inr ⟨a, hi⟩, .inl h⟩

/-- A branch writes `PC` and nothing else. -/
theorem PointersByWriters.of_branch {i : Instr} {s : State} {b : Bool} {d : Byte} (hi : (i, b) ∈ branchForms d s.cpu.p) :
    PointersByWriters i s (branchInstr b d s) :=
  ⟨.inl (by rw [branchInstr_cpu]), .inr ⟨d, 0, List.mem_append_right _ (List.mem_map_of_mem hi)⟩⟩

/-- Every instruction answers a next state, and only the writers of R21 and R23 have changed `S` and `PC` in it. -/
theorem exec_pointers (i : Instr) (s : State) : ∃ t, exec i s = .next t ∧ PointersByWriters i s t := by
  cases i with
  -- both pointers, or `PC` alone
  | jsr a => exact ⟨_, rfl, .inr ⟨a, by simp [stackWriters]⟩, .inr ⟨0, a, by simp [pcWriters]⟩⟩
  | rts | rti | brk => exact ⟨_, rfl, .inr ⟨0, by simp [stackWriters]⟩, .inr ⟨0, 0, by simp [pcWriters]⟩⟩
  | jmpAbs a => exact ⟨_, rfl, .inl rfl, .inr ⟨0, a, by simp [pcWriters]⟩⟩
  | jmpInd a => exact ⟨(memRead _ (memRead a s).2).2.setPc _, rfl, .inl (by simp), .inr ⟨0, a, by simp [pcWriters]⟩⟩
  | bcc d | bcs d | beq d | bne d | bmi d | bpl d | bvc d | bvs d => exact ⟨_, rfl, .of_branch (by simp [branchForms])⟩
  -- `S` alone
  | pha | php => exact ⟨_, rfl, .of_stack 0 (by simp [stackWriters]) (by simp [push_cpu])⟩
  | pla => exact ⟨(pull (dummyStack (dummyPc s))).2.setCpu (Cpu.lda _ (pull (dummyStack (dummyPc s))).2.cpu), rfl,
      .of_stack 0 (by simp [stackWriters]) (by simp [pull_cpu, Cpu.lda])⟩
  | plp => exact ⟨(pull (dummyStack (dummyPc s))).2.setP _, rfl, .of_stack 0 (by simp [stackWriters]) (by simp [pull_cpu])⟩
  | txs => exact ⟨_, rfl, .of_stack 0 (by simp [stackWriters]) (by rw [impliedInstr_cpu]; rfl)⟩
  | lasAby a => exact ⟨_, rfl, .of_stack a (by simp [stackWriters]) (by rw [readInstr_cpu]; rfl)⟩
  | tasAby a => exact ⟨_, rfl, .of_stack a (by simp [stackWriters]) (by rw [storeUnstable_cpu]; rfl)⟩
  -- neither: unstable opcodes, `JAM`, and the templates (`by exact` has the effect known before its fields are compared)
  | lxaImm | xaaImm | jam02 | jam12 | jam22 | jam32 | jam42 | jam52 | jam62 | jam72 | jam92 | jamB2 | jamD2 | jamF2 =>
    exact ⟨_, rfl, .of_same ⟨rfl, rfl⟩⟩
  | shaIzy z => exact ⟨_, rfl, .of_same (.of_cpu ((storeUnstable_cpu _ _ _ _).trans (zpPointer_frame z s).cpu))⟩
  | shaAby | shxAby | shyAbx => exact ⟨_, rfl, .of_same (.of_cpu (storeUnstable_cpu _ _ _ _))⟩
  | staIzx | staZp | staAbs | staIzy | staZpx | staAby | staAbx | stxZp | stxAbs | stxZpy | styZp | styAbs | styZpx
  | saxIzx | saxZp | saxAbs | saxZpy => exact ⟨_, rfl, .of_same (.of_cpu (store_cpu _ _ _))⟩
  | tax | tay | txa | tya | tsx | inx | iny | dex | dey | aslAcc | lsrAcc | rolAcc | rorAcc | clc | sec | cli | sei | cld | sed | clv
  | nop | nopImp1A | nopImp3A | nopImp5A | nopImp7A | nopImpDA | nopImpFA =>
    exact ⟨_, rfl, .of_same (impliedInstr_pointers (by exact fun _ => ⟨rfl, rfl⟩) s)⟩
  | aslZp | aslAbs | aslZpx | aslAbx | lsrZp | lsrAbs | lsrZpx | lsrAbx | rolZp | rolAbs | rolZpx | rolAbx
  | rorZp | rorAbs | rorZpx | rorAbx | incZp | incAbs | incZpx | incAbx | decZp | decAbs | decZpx | decAbx
  | dcpIzx | dcpZp | dcpAbs | dcpIzy | dcpZpx | dcpAby | dcpAbx | isbIzx | isbZp | isbAbs | isbIzy | isbZpx | isbAby | isbAbx
  | sloIzx | sloZp | sloAbs | sloIzy | sloZpx | sloAby | sloAbx | rlaIzx | rlaZp | rlaAbs | rlaIzy | rlaZpx | rlaAby | rlaAbx
  | sreIzx | sreZp | sreAbs | sreIzy | sreZpx | sreAby | sreAbx | rraIzx | rraZp | rraAbs | rraIzy | rraZpx | rraAby | rraAbx =>
    exact ⟨_, rfl, .of_same (rmwInstr_pointers (by exact fun _ _ => ⟨rfl, rfl⟩) _ s)⟩
  -- the read instructions but `LAS`
  | _ => exact ⟨_, rfl, .of_same (readInstr_pointers (by exact fun _ _ => ⟨rfl, rfl⟩) _ s)⟩

/-- Settles O18: the host's part by the frames of reads and writes, the pointers by the template that gives each instruction its meaning. -/
theorem pointerWriters : Obligations.PointerWriters := by
  intro i s t he
  obtain ⟨hcfg, hb0, hb1⟩ := exec_sameHost he
  obtain ⟨u, hu, hsp, hpc⟩ := exec_pointers i s
  cases he.symm.trans hu
  exact ⟨hsp, hpc, hcfg, hb0, hb1⟩

end Sys2Proof.Machine
end

section
/-! SUPPORT. The family of the state (spec file 10): the invariants every step keeps, the reset state, a faulted machine, the status byte. -/

namespace Sys2Proof.Machine

/-! ### Invariants of every step (R30, R32, R34, R38, R41, R48, R51, R527) -/

theorem memoryInv_keeps : Keeps State.MemoryInv := mem_keeps.and memWf_keeps.keeps

/-- Settles O10: reads and writes keep the backing buffers and the picture processor's own memories canonical; a `JAM` touches neither. -/
theorem stepKeepsMemoryForm : Obligations.StepKeepsMemoryForm :=
  fun _ _ h e => memoryInv_keeps.step h (fun _ _ hu => hu) e

/-- Settles O11: a mapper write on a legal cartridge ends in a remapping, and nothing else touches the banking. -/
theorem stepKeepsMapping : Obligations.StepKeepsMapping :=
  fun _ _ h e => cartInv_keeps.step h (fun _ _ hu => hu) e

/-- Settles O13: dots and register accesses keep the raster and the sprite counts, cycles and register writes keep the two counters. -/
theorem stepKeepsRanges : Obligations.StepKeepsRanges :=
  ⟨fun _ _ h e => rasterValid_keeps.keeps.step h (fun _ _ hu => hu) e,
   fun _ _ h e => spritesOk_keeps.keeps.step h (fun _ _ hu => hu) e,
   fun _ _ h e => counter_keeps.step h (fun _ _ hu => hu) e⟩

theorem memRead_faulted {s : State} (h : s.fault.isSome) (a : Word) : (memRead a s).2 = s := by
  unfold memRead
  rw [if_pos h]

theorem memWrite_faulted {s : State} (h : s.fault.isSome) (a : Word) (v : Byte) : memWrite a v s = s := by
  unfold memWrite
  rw [if_pos h]

/-- Settles O5: `step`, `memRead` and `memWrite` look at the fault record first. -/
theorem faultedMachineStops : Obligations.FaultedMachineStops := by
  intro s r h
  have hs : s.fault.isSome := by rw [h]; rfl
  exact ⟨by unfold step; rw [h], fun a v => ⟨memRead_faulted hs a, memWrite_faulted hs a v⟩⟩

/-- Settles O6: `State.reset` has these values written out. -/
theorem resetState : Obligations.ResetState := by
  unfold Obligations.ResetState
  decide

/-- The reset cartridge, a blank NROM, is legal, and its tables are what `Remap` computes. -/
theorem reset_cartInv : State.reset.CartInv := by
  unfold State.CartInv Cart.mapped
  decide

/-- The reset state masks no interrupt source that asserts a flag; NROM has no scanline counter. -/
theorem reset_maskedIrqInv : State.reset.MaskedIrqInv :=
  ⟨fun _ => rfl, fun _ => rfl, fun _ h _ => by cases h⟩

/-- Settles O7: the cartridge and the interrupt sources by their own lemmas, the rest are numbers of the reset state. -/
theorem resetMeetsInvariants : Obligations.ResetMeetsInvariants := by
  have hraster : State.reset.RasterInv := by unfold State.RasterInv Ppu.rasterValid; decide
  have hmem : State.reset.MemoryInv := by unfold State.MemoryInv; decide
  have hclock : State.reset.ClockInv := fun _ => by decide
  have hsprite : State.reset.SpriteInv := by unfold State.SpriteInv; decide
  have hcounter : State.reset.CounterInv := by unfold State.CounterInv; decide
  exact ⟨hraster, hmem, reset_cartInv, hclock, hsprite, hcounter, reset_maskedIrqInv⟩

/-! ### The status byte (R24, R281, R283) -/

/-- The pushed byte as a number: the stored flags at their bits, `B` at bit 4, bit 5 set. -/
theorem Flags.toByte_toNat (p : Flags) (b : Bool) :
    (p.toByte b).toNat = p.c.toNat + 2 * p.z.toNat + 4 * p.i.toNat + 8 * p.d.toNat + 16 * b.toNat + 32 + 64 * p.v.toNat + 128 * p.n.toNat := by
  obtain ⟨c, z, i, d, v, n⟩ := p
  revert c z i d v n b
  decide

theorem Flags.ofByte_toByte (p : Flags) (b : Bool) : Flags.ofByte (p.toByte b) = p := by
  obtain ⟨c, z, i, d, v, n⟩ := p
  revert c z i d v n b
  decide

/-- Pulling a byte and pushing it without `B` clears its bit 4 and sets its bit 5. -/
theorem Flags.toByte_ofByte (v : Byte) : (Flags.ofByte v).toByte false = (v &&& 0xCF) ||| 0x20 := by
  revert v
  decide

/-- Settles O39: the three facts above. -/
theorem statusByte : Obligations.StatusByte :=
  ⟨fun p b => ⟨p.ofByte_toByte b, p.toByte_toNat b⟩, Flags.toByte_ofByte⟩

end Sys2Proof.Machine
end

section
/-! SUPPORT. Stores to the control ports of the picture processor (R401, R402, R406, R407). -/

namespace Sys2Proof.Machine

/-- A field of `n` bits at place `lo` replaced by `x`, as a number: what lies below it, the field, what lies above it. -/
theorem toNat_setField {lo n : Nat} {m t x : BitVec 15} (hm : ∀ i < 15, m.getLsbD i = (decide (lo ≤ i) && decide (i < lo + n)))
    (hn : lo + n ≤ 15) (hx : x.toNat < 2 ^ n) :
    (clearBits m t ||| x <<< lo).toNat = t.toNat % 2 ^ lo + 2 ^ lo * x.toNat + 2 ^ (lo + n) * (t.toNat / 2 ^ (lo + n)) := by
  have e : t.toNat % 2 ^ lo + 2 ^ lo * x.toNat + 2 ^ (lo + n) * (t.toNat / 2 ^ (lo + n))
      = 2 ^ lo * (2 ^ n * (t.toNat / 2 ^ (lo + n)) + x.toNat) + t.toNat % 2 ^ lo := by rw [Nat.pow_add]; ring
  have hxn : ∀ i, n ≤ i → x.getLsbD i = false := fun i h =>
    BitVec.testBit_toNat x ▸ Nat.testBit_lt_two_pow (hx.trans_le (Nat.pow_le_pow_right (by decide) h))
  have ht : ∀ i, 15 ≤ i → t.getLsbD i = false := fun i h => BitVec.getLsbD_of_ge t i h
  rw [e]
  refine Nat.eq_of_testBit_eq fun i => ?_
  rw [Nat.testBit_two_pow_mul_add _ (Nat.mod_lt _ (Nat.two_pow_pos lo)), Nat.testBit_two_pow_mul_add _ hx, Nat.testBit_div_two_pow,
    Nat.testBit_mod_two_pow]
  simp only [BitVec.testBit_toNat, clearBits, BitVec.getLsbD_or, BitVec.getLsbD_and, BitVec.getLsbD_not, BitVec.getLsbD_shiftLeft]
  clear e hx
  by_cases hi : i < 15
  · rw [hm i hi]
    by_cases h1 : i < lo
    · simp [h1, hi]
    by_cases h2 : i - lo < n
    · have h3 : i < lo + n := by omega
      simp [h1, h2, h3, hi, Nat.le_of_not_lt h1]
    · have h3 : lo + n + (i - lo - n) = i := by omega
      have h4 : ¬ i < lo + n := by omega
      rw [hxn _ (by omega)]
      simp [h1, h2, h4, hi, show i - lo - n + (lo + n) = i by omega]
  · have h1 : ¬ i < lo := by omega
    have h2 : ¬ i - lo < n := by omega
    simp [h1, h2, hi, ht i (by omega), show i - lo - n + (lo + n) = i by omega]


theorem toNat_low3 (v : Byte) : ((v &&& 7).setWidth 15).toNat = v.toNat % 8 := by
  simp [BitVec.toNat_and, Nat.and_two_pow_sub_one_eq_mod _ 3]

theorem toNat_high5 (v : Byte) : ((v >>> 3).setWidth 15).toNat = v.toNat / 8 := by
  have := v.isLt
  simp [BitVec.toNat_setWidth, Nat.shiftRight_eq_div_pow]
  omega

/-- The nametable bits of `PPUCTRL` go to bits 11:10 of `T` (R401). -/
theorem Ppu.writeCtrl_t_toNat (v : Byte) (p : Ppu) :
    (p.writeCtrl v).t.toNat = p.t.toNat % 1024 + 1024 * (v.toNat % 4) + 4096 * (p.t.toNat / 4096) := by
  have hv : ((v &&& 3).setWidth 15).toNat = v.toNat % 4 := by simp [BitVec.toNat_and, Nat.and_two_pow_sub_one_eq_mod _ 2]
  rw [← hv]
  exact toNat_setField (lo := 10) (n := 2) (m := 0xC00) (by decide) (by decide) (by omega)

/-- The first `PPUSCROLL` write: coarse X to bits 4:0 of `T`, fine X, and the toggle (R406). -/
theorem Ppu.writeScroll_first (v : Byte) {p : Ppu} (h : p.w = false) :
    (p.writeScroll v).t.toNat = 32 * (p.t.toNat / 32) + v.toNat / 8 ∧ (p.writeScroll v).fineX.toNat = v.toNat % 8 ∧ (p.writeScroll v).w = true := by
  have e : p.writeScroll v = { p with t := clearBits 0x1F p.t ||| (v >>> 3).setWidth 15 <<< 0, fineX := v.extractLsb' 0 3, w := true } := by
    simp [Ppu.writeScroll, h]
  have ht := toNat_setField (lo := 0) (n := 5) (m := 0x1F) (t := p.t) (x := (v >>> 3).setWidth 15) (by decide) (by decide)
    (by rw [toNat_high5]; omega)
  rw [e]
  dsimp only
  rw [ht, toNat_high5]
  exact ⟨by omega, by simp, rfl⟩

/-- The second `PPUSCROLL` write: fine Y to bits 14:12 and coarse Y to bits 9:5 of `T`, and the toggle (R406). -/
theorem Ppu.writeScroll_second (v : Byte) {p : Ppu} (h : p.w = true) :
    (p.writeScroll v).t.toNat = p.t.toNat % 32 + 32 * (v.toNat / 8) + 1024 * (p.t.toNat / 1024 % 4) + 4096 * (v.toNat % 8)
      ∧ (p.writeScroll v).w = false := by
  have two : ∀ t x y : BitVec 15, clearBits 0x73E0 t ||| x <<< 12 ||| y <<< 5 = clearBits 0x3E0 (clearBits 0x7000 t ||| x <<< 12) ||| y <<< 5 := by
    intro t x y
    ext i hi
    simp only [clearBits]
    interval_cases i <;> simp
  have e : p.writeScroll v
      = { p with t := clearBits 0x73E0 p.t ||| (v &&& 7).setWidth 15 <<< 12 ||| (v >>> 3).setWidth 15 <<< 5, w := false } := by
    simp [Ppu.writeScroll, h]
  rw [e]
  dsimp only
  rw [two, toNat_setField (lo := 5) (n := 5) (by decide) (by decide) (by rw [toNat_high5]; omega),
    toNat_setField (lo := 12) (n := 3) (by decide) (by decide) (by rw [toNat_low3]; omega), toNat_high5, toNat_low3]
  have := p.t.isLt
  exact ⟨by omega, rfl⟩

/-- The first `PPUADDR` write: the high six bits of `T`, bit 14 cleared, and the toggle (R407). -/
theorem Ppu.writeAddr_first (mem : Buffers) (now : Nat) (v : Byte) {p : Ppu} (c : Cart) (h : p.w = false) :
    (p.writeAddr mem now v c).ppu.t.toNat = p.t.toNat % 256 + 256 * (v.toNat % 64) ∧ (p.writeAddr mem now v c).ppu.w = true := by
  have hv : ((v &&& 0x3F).setWidth 15).toNat = v.toNat % 64 := by simp [BitVec.toNat_and, Nat.and_two_pow_sub_one_eq_mod _ 6]
  have e : (p.writeAddr mem now v c).ppu = { p with t := clearBits 0x7F00 p.t ||| (v &&& 0x3F).setWidth 15 <<< 8, w := true } := by
    simp [Ppu.writeAddr, h, clearBits]
  have ht := toNat_setField (lo := 8) (n := 7) (m := 0x7F00) (t := p.t) (x := (v &&& 0x3F).setWidth 15) (by decide) (by decide)
    (by rw [hv]; omega)
  rw [e]
  dsimp only
  rw [ht, hv]
  have := p.t.isLt
  exact ⟨by omega, rfl⟩

/-- The second `PPUADDR` write: the low byte of `T`, which is copied to `V`, and the toggle (R407). -/
theorem Ppu.writeAddr_second (mem : Buffers) (now : Nat) (v : Byte) {p : Ppu} (c : Cart) (h : p.w = true) :
    (p.writeAddr mem now v c).ppu.t.toNat = 256 * (p.t.toNat / 256) + v.toNat ∧ (p.writeAddr mem now v c).ppu.w = false
      ∧ (p.writeAddr mem now v c).ppu.v = (p.writeAddr mem now v c).ppu.t := by
  have hv : (v.setWidth 15).toNat = v.toNat := by simp [BitVec.toNat_setWidth]; omega
  have e : (p.writeAddr mem now v c).ppu
      = { p with t := clearBits 0xFF p.t ||| v.setWidth 15 <<< 0, v := clearBits 0xFF p.t ||| v.setWidth 15 <<< 0, w := false } := by
    simp [Ppu.writeAddr, h]
  have ht := toNat_setField (lo := 0) (n := 8) (m := 0xFF) (t := p.t) (x := v.setWidth 15) (by decide) (by decide) (by rw [hv]; omega)
  rw [e]
  dsimp only
  rw [ht, hv]
  exact ⟨by omega, rfl, rfl⟩

/-! ### A store to a PPU register -/

theorem advance_dotFrame (u : Nat) (s : State) : DotFrame s.ppu s.cart (advance u s).ppu (advance u s).cart := runDots_frame _ _ _ _ _

/-- The first half-step of a write cycle is dots alone to the PPU. -/
theorem atWrite_dotFrame (s : State) : DotFrame s.ppu s.cart s.atWrite.ppu s.atWrite.cart :=
  advance_dotFrame 7 { s with clk := { s.clk with cyc := s.clk.cyc + 1 } }

theorem busWrite_ppuReg {a : Word} (h : 0x2000 ≤ a.toNat) (h' : a.toNat < 0x4000) (v : Byte) (s : State) :
    (busWrite a v s).ppu = (s.ppu.regWrite s.mem s.dots (a.toNat % 8) v s.cart).ppu := by
  unfold busWrite busTarget
  rw [if_neg (by omega), if_pos h']
  rfl

/-- A write that raises no fault: the first half-step, the access, the sample, the second half-step (R85). -/
theorem memWrite_eq {a : Word} {v : Byte} {s : State} (hs : s.fault = none) (ht : (busWrite a v s.atWrite).fault = none) :
    memWrite a v s = advance 5 (sampleLines (busWrite a v s.atWrite)) := by
  unfold memWrite writeCycle
  rw [if_neg (by simp [hs])]
  exact if_neg (by rw [State.atWrite] at ht; simp [ht])

/-- A store to a PPU register, as the PPU sees it: dots before it that leave the address port alone, the write, and dots after it. -/
theorem memWrite_ppuReg {a : Word} {s : State} (hf : s.fault = none) (h : 0x2000 ≤ a.toNat) (h' : a.toNat < 0x4000) (v : Byte) :
    ∃ (mem : Buffers) (now : Nat) (p : Ppu) (c d : Cart), DotFrame s.ppu s.cart p c ∧
      DotFrame (p.regWrite mem now (a.toNat % 8) v c).ppu d (memWrite a v s).ppu (memWrite a v s).cart ∧
      ((p.regWrite mem now (a.toNat % 8) v c).ppu.rendering = false →
        (p.regWrite mem now (a.toNat % 8) v c).ppu.IdleFrame (memWrite a v s).ppu) := by
  have ht : (busWrite a v s.atWrite).fault = none := by
    rw [busWrite_fault_low (by omega)]
    exact (readFrame_parts.startTick .write s).fault.trans hf
  refine ⟨s.atWrite.mem, s.atWrite.dots, s.atWrite.ppu, s.atWrite.cart, (busWrite a v s.atWrite).cart, atWrite_dotFrame s, ?_⟩
  rw [memWrite_eq hf ht, ← busWrite_ppuReg h h']
  exact ⟨advance_dotFrame 5 (sampleLines (busWrite a v s.atWrite)), fun hr => (advance_idle 5 hr).1⟩

/-- Settles O53: the dots of the store's two half-steps leave the address port alone, so the register write alone changes it; `V` stays only while no dot moves it. -/
theorem ppuControlPorts : Obligations.PpuControlPorts := by
  intro a s hf h h'
  refine ⟨memWrite a s.cpu.a s, rfl, memWrite_cpu _ _ _, ?_⟩
  obtain ⟨mem, now, p, c, d, before, after, idle⟩ := memWrite_ppuReg hf h h' s.cpu.a
  generalize a.toNat % 8 = r at *
  rw [after.ctrl, after.mask, after.t, after.fineX, after.w, ← before.t, ← before.w]
  let q : Ppu := { p with ioLatch := s.cpu.a }
  refine ⟨?ctrl, ?mask, ?scroll1, ?scroll2, ?addr1, ?addr2⟩
  case ctrl => rintro rfl; exact ⟨rfl, q.writeCtrl_t_toNat s.cpu.a⟩
  case mask => rintro rfl; rfl
  case scroll1 => rintro rfl hw; exact Ppu.writeScroll_first (p := q) s.cpu.a hw
  case scroll2 => rintro rfl hw; exact Ppu.writeScroll_second (p := q) s.cpu.a hw
  case addr1 => rintro rfl hw; exact Ppu.writeAddr_first (p := q) mem now s.cpu.a c hw
  case addr2 =>
    rintro rfl hw
    obtain ⟨ht, hw', hv⟩ := Ppu.writeAddr_second (p := q) mem now s.cpu.a c hw
    refine ⟨ht, hw', fun hr => ?_⟩
    obtain ⟨-, hmask, -⟩ := p.regWrite_fields mem now 6 s.cpu.a c
    have hi := idle (by unfold Ppu.rendering at hr ⊢; rw [hmask (by decide), before.mask]; exact hr)
    rw [hi]
    exact hv

end Sys2Proof.Machine
end

section
/-! SUPPORT. Which instructions write which flags (R25). -/

namespace Sys2Proof.Machine

/-! ### The flags through the templates -/

/-- A read instruction relates the flags as its effect does, whatever its operand. -/
theorem readInstr_flags {R : Flags → Flags → Prop} {f : Byte → Cpu → Cpu} (h : ∀ m c, R c.p (f m c).p) (o : Operand) (s : State) :
    R s.cpu.p (readInstr f o s).cpu.p := by
  rw [readInstr_cpu]
  exact h _ _

theorem impliedInstr_flags {R : Flags → Flags → Prop} {f : Cpu → Cpu} (h : ∀ c, R c.p (f c).p) (s : State) :
    R s.cpu.p (impliedInstr f s).cpu.p := by
  rw [impliedInstr_cpu]
  exact h _

/-- A read-modify-write instruction relates the flags as its two effects do, or after a fault in one of its writes leaves them alone. -/
theorem rmwInstr_flags {R : Flags → Flags → Prop} {f : Byte → Flags → Byte × Flags} {g : Byte → Cpu → Cpu}
    (hR : ∀ p, R p p)
    (h : ∀ v (c : Cpu), R c.p (g (f v c.p).1 { c with p := (f v c.p).2 }).p) (m : MemMode) (s : State) : R s.cpu.p (rmwInstr f g m s).cpu.p := by
  have hc := (storeAddress_frame m s).cpu
  unfold rmwInstr
  dsimp only
  split
  · simp only [memWrite_cpu, memRead_cpu, hc]
    exact hR _
  · simp only [State.setCpu_cpu, memWrite_cpu, memRead_cpu, hc]
    exact h _ s.cpu

/-! ### The rows of R25's table -/

/-- The instructions that write `C`, `V`, `Z` and `N`: the additions and subtractions, and `ARR`. -/
def additionForms (v z : Byte) (a : Word) : List Instr :=
  (adcForms v z a ++ sbcForms v z a).map Prod.fst ++ (isbForms z a ++ rraForms z a).map Prod.fst ++ [.arrImm v]

/-- The instructions that write `C`, `Z` and `N`: comparisons, shifts and rotates, and the illegal opcodes built on them. -/
def comparisonForms (v z : Byte) (a : Word) : List Instr :=
  (cmpForms v z a ++ cpxForms v z a ++ cpyForms v z a).map Prod.fst
    ++ ((shiftForms z a).map Prod.fst ++ (dcpForms z a ++ sloForms z a ++ rlaForms z a ++ sreForms z a).map Prod.fst)
    ++ shiftAcc ++ [.ancImm0B v, .ancImm2B v, .alrImm v, .axsImm v]

/-- The transfers but `TXS`, the register increments and decrements, and `PLA`. -/
def transferForms : List Instr := [.tax, .tay, .txa, .tya, .tsx, .inx, .iny, .dex, .dey, .pla]

/-- The instructions that write `Z` and `N` alone: loads, logic, increments and decrements, transfers. -/
def loadForms (v z : Byte) (a : Word) : List Instr :=
  (ldaForms v z a ++ ldxForms v z a ++ ldyForms v z a ++ laxForms z a).map Prod.fst
    ++ (andForms v z a ++ oraForms v z a ++ eorForms v z a).map Prod.fst
    ++ (incForms z a ++ decForms z a).map Prod.fst ++ [.lasAby a, .lxaImm v, .xaaImm v] ++ transferForms

theorem additionForms_writers {v z : Byte} {a : Word} {i : Instr} (h : i ∈ additionForms v z a) :
    i ∈ carryWriters v z a ∧ i ∈ overflowWriters v z a ∧ i ∈ resultWriters v z a := by
  simp only [additionForms, carryWriters, overflowWriters, resultWriters, illegalRmwForms, illegalImm, List.map_append, List.mem_append,
    List.mem_cons, List.not_mem_nil, or_false] at h ⊢
  grind

theorem comparisonForms_writers {v z : Byte} {a : Word} {i : Instr} (h : i ∈ comparisonForms v z a) :
    i ∈ carryWriters v z a ∧ i ∈ resultWriters v z a := by
  simp only [comparisonForms, carryWriters, resultWriters, illegalRmwForms, illegalImm, List.map_append, List.mem_append,
    List.mem_cons, List.not_mem_nil, or_false] at h ⊢
  grind

theorem loadForms_writers {v z : Byte} {a : Word} {i : Instr} (h : i ∈ loadForms v z a) : i ∈ resultWriters v z a := by
  simp only [loadForms, transferForms, resultWriters, List.map_append, List.mem_append, List.mem_cons, List.not_mem_nil, or_false] at h ⊢
  grind

theorem bitForms_writers {v z : Byte} {a : Word} {i : Instr} (h : i ∈ (bitForms z a).map Prod.fst) :
    i ∈ overflowWriters v z a ∧ i ∈ resultWriters v z a := by
  simp only [overflowWriters, resultWriters, List.map_append, List.mem_append]
  grind

/-- A form of one of a row's mnemonics is a form of the row. -/
theorem exists_mem_mono {l l' : Byte → Byte → Word → List Instr} {i : Instr} (hl : ∀ v z a, l v z a ⊆ l' v z a)
    (h : ∃ v z a, i ∈ l v z a) :
    ∃ v z a, i ∈ l' v z a := by
  obtain ⟨v, z, a, h⟩ := h
  exact ⟨v, z, a, hl v z a h⟩

theorem additionForms_of_read {i : Instr} (h : ∃ v z a, i ∈ (adcForms v z a ++ sbcForms v z a).map Prod.fst) :
    ∃ v z a, i ∈ additionForms v z a :=
  exists_mem_mono (fun _ _ _ _ h => List.mem_append_left _ (List.mem_append_left _ h)) h

theorem additionForms_of_rmw {i : Instr} (h : ∃ (_v z : Byte) (a : Word), i ∈ (isbForms z a ++ rraForms z a).map Prod.fst) :
    ∃ v z a, i ∈ additionForms v z a :=
  exists_mem_mono (fun _ _ _ _ h => List.mem_append_left _ (List.mem_append_right _ h)) h

theorem comparisonForms_of_read {i : Instr} (h : ∃ v z a, i ∈ (cmpForms v z a ++ cpxForms v z a ++ cpyForms v z a).map Prod.fst) :
    ∃ v z a, i ∈ comparisonForms v z a :=
  exists_mem_mono (fun _ _ _ _ h => by simp only [comparisonForms, List.mem_append]; exact .inl (.inl (.inl h))) h

theorem comparisonForms_of_shift {i : Instr} (h : ∃ (_v z : Byte) (a : Word), i ∈ (shiftForms z a).map Prod.fst) :
    ∃ v z a, i ∈ comparisonForms v z a :=
  exists_mem_mono (fun _ _ _ _ h => by simp only [comparisonForms, List.mem_append]; exact .inl (.inl (.inr (.inl h)))) h

theorem comparisonForms_of_rmw {i : Instr}
    (h : ∃ (_v z : Byte) (a : Word), i ∈ (dcpForms z a ++ sloForms z a ++ rlaForms z a ++ sreForms z a).map Prod.fst) :
    ∃ v z a, i ∈ comparisonForms v z a :=
  exists_mem_mono (fun _ _ _ _ h => by simp only [comparisonForms, List.mem_append]; exact .inl (.inl (.inr (.inr h)))) h

theorem comparisonForms_of_acc {i : Instr} (h : i ∈ shiftAcc) : ∃ v z a, i ∈ comparisonForms v z a :=
  ⟨0, 0, 0, by simp only [comparisonForms, List.mem_append]; exact .inl (.inr h)⟩

theorem loadForms_of_load {i : Instr}
    (h : ∃ v z a, i ∈ (ldaForms v z a ++ ldxForms v z a ++ ldyForms v z a ++ laxForms z a).map Prod.fst) :
    ∃ v z a, i ∈ loadForms v z a :=
  exists_mem_mono (fun _ _ _ _ h => by simp only [loadForms, List.mem_append]; exact .inl (.inl (.inl (.inl h)))) h

theorem loadForms_of_logic {i : Instr} (h : ∃ v z a, i ∈ (andForms v z a ++ oraForms v z a ++ eorForms v z a).map Prod.fst) :
    ∃ v z a, i ∈ loadForms v z a :=
  exists_mem_mono (fun _ _ _ _ h => by simp only [loadForms, List.mem_append]; exact .inl (.inl (.inl (.inr h)))) h

theorem loadForms_of_rmw {i : Instr} (h : ∃ (_v z : Byte) (a : Word), i ∈ (incForms z a ++ decForms z a).map Prod.fst) :
    ∃ v z a, i ∈ loadForms v z a :=
  exists_mem_mono (fun _ _ _ _ h => by simp only [loadForms, List.mem_append]; exact .inl (.inl (.inr h))) h

theorem loadForms_of_transfer {i : Instr} (h : i ∈ transferForms) : ∃ v z a, i ∈ loadForms v z a :=
  ⟨0, 0, 0, List.mem_append_right _ h⟩

/-! ### Who writes the flags (R25) -/

/-- From `p` to `q` the instruction `i` changes only flags it is listed as a writer of. -/
def FlagsByWriters (i : Instr) (p q : Flags) : Prop :=
  (q.c = p.c ∨ ∃ v z a, i ∈ carryWriters v z a) ∧ (q.v = p.v ∨ ∃ v z a, i ∈ overflowWriters v z a) ∧
  (q.i = p.i ∨ i ∈ maskWriters) ∧ (q.d = p.d ∨ i ∈ decimalWriters) ∧ ((q.z = p.z ∧ q.n = p.n) ∨ ∃ v z a, i ∈ resultWriters v z a)

theorem FlagsByWriters.of_same {i : Instr} {p q : Flags} (h : q = p) : FlagsByWriters i p q := by
  subst h
  exact ⟨.inl rfl, .inl rfl, .inl rfl, .inl rfl, .inl ⟨rfl, rfl⟩⟩

/-- The flags of `q` but `C`, `V`, `Z` and `N` are those of `p`. -/
def Flags.SameMode (p q : Flags) : Prop := q.i = p.i ∧ q.d = p.d

/-- The flags of `q` but `C`, `Z` and `N` are those of `p`. -/
def Flags.SameModeV (p q : Flags) : Prop := q.i = p.i ∧ q.d = p.d ∧ q.v = p.v

/-- The flags of `q` but `V`, `Z` and `N` are those of `p`. -/
def Flags.SameModeC (p q : Flags) : Prop := q.i = p.i ∧ q.d = p.d ∧ q.c = p.c

/-- The flags of `q` but `Z` and `N` are those of `p`. -/
def Flags.SameModeVC (p q : Flags) : Prop := q.i = p.i ∧ q.d = p.d ∧ q.v = p.v ∧ q.c = p.c

theorem FlagsByWriters.of_addition {i : Instr} {p q : Flags} (hi : ∃ v z a, i ∈ additionForms v z a) (h : p.SameMode q) :
    FlagsByWriters i p q := by
  obtain ⟨v, z, a, hi⟩ := hi
  obtain ⟨hc, hv, hr⟩ := additionForms_writers hi
  obtain ⟨him, hd⟩ := h
  exact ⟨.inr ⟨v, z, a, hc⟩, .inr ⟨v, z, a, hv⟩, .inl him, .inl hd, .inr ⟨v, z, a, hr⟩⟩

theorem FlagsByWriters.of_comparison {i : Instr} {p q : Flags} (hi : ∃ v z a, i ∈ comparisonForms v z a) (h : p.SameModeV q) :
    FlagsByWriters i p q := by
  obtain ⟨v, z, a, hi⟩ := hi
  obtain ⟨hc, hr⟩ := comparisonForms_writers hi
  obtain ⟨him, hd, hv⟩ := h
  exact ⟨.inr ⟨v, z, a, hc⟩, .inl hv, .inl him, .inl hd, .inr ⟨v, z, a, hr⟩⟩

theorem FlagsByWriters.of_bit {i : Instr} {p q : Flags} (hi : ∃ z a, i ∈ (bitForms z a).map Prod.fst) (h : p.SameModeC q) :
    FlagsByWriters i p q := by
  obtain ⟨z, a, hi⟩ := hi
  obtain ⟨hv, hr⟩ := bitForms_writers (v := 0) hi
  obtain ⟨him, hd, hc⟩ := h
  exact ⟨.inl hc, .inr ⟨0, z, a, hv⟩, .inl him, .inl hd, .inr ⟨0, z, a, hr⟩⟩

theorem FlagsByWriters.of_load {i : Instr} {p q : Flags} (hi : ∃ v z a, i ∈ loadForms v z a) (h : p.SameModeVC q) :
    FlagsByWriters i p q := by
  obtain ⟨v, z, a, hi⟩ := hi
  obtain ⟨him, hd, hv, hc⟩ := h
  exact ⟨.inl hc, .inl hv, .inl him, .inl hd, .inr ⟨v, z, a, loadForms_writers hi⟩⟩

/-- `PLP` and `RTI` write every flag. -/
theorem FlagsByWriters.of_pull {i : Instr} (hi : i = .plp ∨ i = .rti) (p q : Flags) : FlagsByWriters i p q := by
  refine ⟨.inr ⟨0, 0, 0, ?_⟩, .inr ⟨0, 0, 0, ?_⟩, .inr ?_, .inr ?_, .inr ⟨0, 0, 0, ?_⟩⟩
  · exact List.mem_append_right _ (by rcases hi with rfl | rfl <;> simp)
  · exact List.mem_append_right _ (by rcases hi with rfl | rfl <;> simp)
  · rcases hi with rfl | rfl <;> simp [maskWriters]
  · rcases hi with rfl | rfl <;> simp [decimalWriters]
  · exact List.mem_append_right _ (by rcases hi with rfl | rfl <;> simp)

/-- Every instruction answers a next state, and only the flags R25 lists for it have changed in it. -/
theorem exec_flags (i : Instr) (s : State) : ∃ t, exec i s = .next t ∧ FlagsByWriters i s.cpu.p t.cpu.p := by
  cases i with
  -- `C`, `V`, `Z`, `N`
  | adcIzx | adcZp | adcImm | adcAbs | adcIzy | adcZpx | adcAby | adcAbx
  | sbcIzx | sbcZp | sbcImm | sbcAbs | sbcIzy | sbcZpx | sbcAby | sbcAbx | sbcImmEB =>
    exact ⟨_, rfl, .of_addition (additionForms_of_read (by simp [adcForms, sbcForms])) (readInstr_flags (by exact fun _ _ => ⟨rfl, rfl⟩) _ s)⟩
  | isbIzx | isbZp | isbAbs | isbIzy | isbZpx | isbAby | isbAbx | rraIzx | rraZp | rraAbs | rraIzy | rraZpx | rraAby | rraAbx =>
    exact ⟨_, rfl, .of_addition (additionForms_of_rmw (by simp [isbForms, rraForms]))
      (rmwInstr_flags (fun _ => ⟨rfl, rfl⟩) (by exact fun _ _ => ⟨rfl, rfl⟩) _ s)⟩
  | arrImm v => exact ⟨_, rfl, .of_addition ⟨v, 0, 0, by simp [additionForms]⟩ (readInstr_flags (by exact fun _ _ => ⟨rfl, rfl⟩) _ s)⟩
  -- `C`, `Z`, `N`
  | cmpIzx | cmpZp | cmpImm | cmpAbs | cmpIzy | cmpZpx | cmpAby | cmpAbx | cpxImm | cpxZp | cpxAbs | cpyImm | cpyZp | cpyAbs =>
    exact ⟨_, rfl, .of_comparison (comparisonForms_of_read (by simp [cmpForms, cpxForms, cpyForms]))
      (readInstr_flags (by exact fun _ _ => ⟨rfl, rfl, rfl⟩) _ s)⟩
  | ancImm0B v | ancImm2B v | alrImm v | axsImm v =>
    exact ⟨_, rfl, .of_comparison ⟨v, 0, 0, by simp [comparisonForms]⟩ (readInstr_flags (by exact fun _ _ => ⟨rfl, rfl, rfl⟩) _ s)⟩
  | aslZp | aslAbs | aslZpx | aslAbx | lsrZp | lsrAbs | lsrZpx | lsrAbx | rolZp | rolAbs | rolZpx | rolAbx | rorZp | rorAbs | rorZpx | rorAbx =>
    exact ⟨_, rfl, .of_comparison (comparisonForms_of_shift (by simp [shiftForms, aslForms, lsrForms, rolForms, rorForms]))
      (rmwInstr_flags (fun _ => ⟨rfl, rfl, rfl⟩) (by exact fun _ _ => ⟨rfl, rfl, rfl⟩) _ s)⟩
  | dcpIzx | dcpZp | dcpAbs | dcpIzy | dcpZpx | dcpAby | dcpAbx | sloIzx | sloZp | sloAbs | sloIzy | sloZpx | sloAby | sloAbx
  | rlaIzx | rlaZp | rlaAbs | rlaIzy | rlaZpx | rlaAby | rlaAbx | sreIzx | sreZp | sreAbs | sreIzy | sreZpx | sreAby | sreAbx =>
    exact ⟨_, rfl, .of_comparison (comparisonForms_of_rmw (by simp [dcpForms, sloForms, rlaForms, sreForms]))
      (rmwInstr_flags (fun _ => ⟨rfl, rfl, rfl⟩) (by exact fun _ _ => ⟨rfl, rfl, rfl⟩) _ s)⟩
  | aslAcc | lsrAcc | rolAcc | rorAcc =>
    exact ⟨_, rfl, .of_comparison (comparisonForms_of_acc (by simp [shiftAcc])) (impliedInstr_flags (by exact fun _ => ⟨rfl, rfl, rfl⟩) s)⟩
  -- `V`, `Z`, `N`
  | bitZp | bitAbs => exact ⟨_, rfl, .of_bit (by simp [bitForms]) (readInstr_flags (by exact fun _ _ => ⟨rfl, rfl, rfl⟩) _ s)⟩
  -- `Z`, `N`
  | ldaIzx | ldaZp | ldaImm | ldaAbs | ldaIzy | ldaZpx | ldaAby | ldaAbx | ldxImm | ldxZp | ldxAbs | ldxZpy | ldxAby
  | ldyImm | ldyZp | ldyAbs | ldyZpx | ldyAbx
  | laxIzx | laxZp | laxAbs | laxIzy | laxZpy | laxAby =>
    exact ⟨_, rfl, .of_load (loadForms_of_load (by simp [ldaForms, ldxForms, ldyForms, laxForms]))
      (readInstr_flags (by exact fun _ _ => ⟨rfl, rfl, rfl, rfl⟩) _ s)⟩
  | andIzx | andZp | andImm | andAbs | andIzy | andZpx | andAby | andAbx | oraIzx | oraZp | oraImm | oraAbs | oraIzy | oraZpx | oraAby | oraAbx
  | eorIzx | eorZp | eorImm | eorAbs | eorIzy | eorZpx | eorAby | eorAbx =>
    exact ⟨_, rfl, .of_load (loadForms_of_logic (by simp [andForms, oraForms, eorForms]))
      (readInstr_flags (by exact fun _ _ => ⟨rfl, rfl, rfl, rfl⟩) _ s)⟩
  | incZp | incAbs | incZpx | incAbx | decZp | decAbs | decZpx | decAbx =>
    exact ⟨_, rfl, .of_load (loadForms_of_rmw (by simp [incForms, decForms]))
      (rmwInstr_flags (fun _ => ⟨rfl, rfl, rfl, rfl⟩) (by exact fun _ _ => ⟨rfl, rfl, rfl, rfl⟩) _ s)⟩
  | tax | tay | txa | tya | tsx | inx | iny | dex | dey =>
    exact ⟨_, rfl, .of_load (loadForms_of_transfer (by simp [transferForms])) (impliedInstr_flags (by exact fun _ => ⟨rfl, rfl, rfl, rfl⟩) s)⟩
  | lasAby a => exact ⟨_, rfl, .of_load ⟨0, 0, a, by simp [loadForms]⟩ (readInstr_flags (by exact fun _ _ => ⟨rfl, rfl, rfl, rfl⟩) _ s)⟩
  | lxaImm v | xaaImm v => exact ⟨_, rfl, .of_load ⟨v, 0, 0, by simp [loadForms]⟩ ⟨rfl, rfl, rfl, rfl⟩⟩
  | pla =>
    refine ⟨(pull (dummyStack (dummyPc s))).2.setCpu (Cpu.lda _ (pull (dummyStack (dummyPc s))).2.cpu), rfl,
      .of_load (loadForms_of_transfer (by simp [transferForms])) ?_⟩
    simp only [State.setCpu_cpu, pull_cpu, dummyStack_cpu, dummyPc_cpu]
    exact ⟨rfl, rfl, rfl, rfl⟩
  -- one flag
  | clc | sec =>
    exact ⟨_, rfl, impliedInstr_flags (R := FlagsByWriters _)
      (by exact fun _ => ⟨.inr ⟨0, 0, 0, List.mem_append_right _ (by simp)⟩, .inl rfl, .inl rfl, .inl rfl, .inl ⟨rfl, rfl⟩⟩) s⟩
  | clv =>
    exact ⟨_, rfl, impliedInstr_flags (R := FlagsByWriters _)
      (by exact fun _ => ⟨.inl rfl, .inr ⟨0, 0, 0, List.mem_append_right _ (by simp)⟩, .inl rfl, .inl rfl, .inl ⟨rfl, rfl⟩⟩) s⟩
  | cli | sei =>
    exact ⟨_, rfl, impliedInstr_flags (R := FlagsByWriters _)
      (by exact fun _ => ⟨.inl rfl, .inl rfl, .inr (by simp [maskWriters]), .inl rfl, .inl ⟨rfl, rfl⟩⟩) s⟩
  | cld | sed =>
    exact ⟨_, rfl, impliedInstr_flags (R := FlagsByWriters _)
      (by exact fun _ => ⟨.inl rfl, .inl rfl, .inl rfl, .inr (by simp [decimalWriters]), .inl ⟨rfl, rfl⟩⟩) s⟩
  | brk =>
    obtain ⟨pc, hcpu⟩ := takeException_cpu true ((dummyPc s).setPc ((dummyPc s).cpu.pc + 1))
    refine ⟨_, rfl, ?_⟩
    rw [hcpu, State.setPc_p, dummyPc_cpu]
    exact ⟨.inl rfl, .inl rfl, .inr (by simp [maskWriters]), .inl rfl, .inl ⟨rfl, rfl⟩⟩
  -- every flag
  | plp => exact ⟨_, rfl, .of_pull (.inl rfl) _ _⟩
  | rti => exact ⟨_, rfl, .of_pull (.inr rfl) _ _⟩
  -- no flag: jumps, calls, pushes, branches, `TXS`
  | jmpAbs => exact ⟨_, rfl, .of_same rfl⟩
  | jmpInd a => exact ⟨(memRead _ (memRead a s).2).2.setPc _, rfl, .of_same (by simp)⟩
  | jsr a => exact ⟨(memRead _ (push _ (push _ (dummyStack s)))).2.setPc _, rfl, .of_same (by simp [push_cpu])⟩
  | rts =>
    refine ⟨(dummyPc ((pull (pull (dummyStack (dummyPc s))).2).2.setPc _)).setPc _, rfl, .of_same ?_⟩
    simp [pull_cpu]
  | pha | php => exact ⟨_, rfl, .of_same (by simp [push_cpu])⟩
  | bcc | bcs | beq | bne | bmi | bpl | bvc | bvs => exact ⟨_, rfl, .of_same (by rw [branchInstr_cpu])⟩
  | txs => exact ⟨_, rfl, .of_same (by rw [impliedInstr_cpu]; rfl)⟩
  -- no flag: stores, unstable stores, `JAM`
  | staIzx | staZp | staAbs | staIzy | staZpx | staAby | staAbx | stxZp | stxAbs | stxZpy | styZp | styAbs | styZpx
  | saxIzx | saxZp | saxAbs | saxZpy => exact ⟨_, rfl, .of_same (congrArg Cpu.p (store_cpu _ _ s))⟩
  | shaIzy z => exact ⟨_, rfl, .of_same (congrArg Cpu.p ((storeUnstable_cpu _ _ _ _).trans (zpPointer_frame z s).cpu))⟩
  | shaAby | shxAby | shyAbx => exact ⟨_, rfl, .of_same (congrArg Cpu.p (storeUnstable_cpu _ _ _ s))⟩
  | tasAby => exact ⟨_, rfl, .of_same (by rw [storeUnstable_cpu]; rfl)⟩
  | jam02 | jam12 | jam22 | jam32 | jam42 | jam52 | jam62 | jam72 | jam92 | jamB2 | jamD2 | jamF2 => exact ⟨_, rfl, .of_same rfl⟩
  -- no flag: `NOP` and `*NOP`
  | nop | nopImp1A | nopImp3A | nopImp5A | nopImp7A | nopImpDA | nopImpFA =>
    exact ⟨_, rfl, impliedInstr_flags (R := FlagsByWriters _) (by exact fun _ => .of_same rfl) s⟩
  | _ => exact ⟨_, rfl, readInstr_flags (R := FlagsByWriters _) (by exact fun _ _ => .of_same rfl) _ s⟩

/-- Settles O17: each instruction's effect on the flags comes through the template that gives it its meaning, and its row in R25's table lists it. -/
theorem flagWriters : Obligations.FlagWriters := by
  intro i s t he
  obtain ⟨u, hu, h⟩ := exec_flags i s
  cases he.symm.trans hu
  exact h

end Sys2Proof.Machine
end

section
/-! SUPPORT. The warm reset (R561, R562). -/

namespace Sys2Proof.Machine

/-! ### A silent APU (R44 to R48, R465) -/

/-- No channel has a length, the sample channel is empty, no interrupt flag is set, and the frame sequencer has counted at most `n` cycles. -/
structure Apu.Silent (n : Nat) (a : Apu) : Prop where
  lens : ∀ l ∈ [a.sq1.len, a.sq2.len, a.tri.len, a.noise.len], l.enabled = false ∧ l.value = 0
  remaining : a.dmc.bytesRemaining = 0
  dmcIrq : a.dmc.irqFlag = false
  seqIrq : a.seq.irqFlag = false
  cycle : a.seq.cycle ≤ n

/-- A length counter at 0 stays there. -/
theorem LengthCounter.clock_zero {l : LengthCounter} (h : l.value = 0) : l.clock = l := by
  unfold LengthCounter.clock
  simp [h]

theorem Apu.Silent.quarter {n : Nat} {a : Apu} (h : a.Silent n) : a.quarter.Silent n :=
  ⟨h.lens, h.remaining, h.dmcIrq, h.seqIrq, h.cycle⟩

theorem Apu.Silent.half {n : Nat} {a : Apu} (h : a.Silent n) : a.half.Silent n := by
  have hz : ∀ l ∈ [a.sq1.len, a.sq2.len, a.tri.len, a.noise.len], l.clock = l := fun l hl => LengthCounter.clock_zero (h.lens l hl).2
  simp only [List.mem_cons, List.not_mem_nil, or_false, forall_eq_or_imp, forall_eq] at hz
  obtain ⟨h1, h2, h3, h4⟩ := hz
  refine ⟨?_, h.remaining, h.dmcIrq, h.seqIrq, h.cycle⟩
  have hl := h.lens
  rw [← h1, ← h2, ← h3, ← h4] at hl
  exact hl

/-- `ApplyFrameMode(v)` restarts the sequencer in the mode of bit 7 (R465). -/
theorem Apu.applyFrameMode_seq (v : Byte) (a : Apu) : (a.applyFrameMode v).seq = { a.seq with mode := v.getLsbD 7, cycle := 0, step := 0 } := by
  unfold Apu.applyFrameMode
  dsimp only
  split <;> rfl

theorem Apu.Silent.applyFrameMode {n : Nat} {a : Apu} (h : a.Silent n) (v : Byte) : (a.applyFrameMode v).Silent n := by
  have hb : ({ a with seq := { a.seq with mode := v.getLsbD 7, cycle := 0, step := 0 } } : Apu).Silent n :=
    ⟨h.lens, h.remaining, h.dmcIrq, h.seqIrq, Nat.zero_le n⟩
  unfold Apu.applyFrameMode
  dsimp only
  split
  · exact hb.quarter.half
  · exact hb

theorem Apu.Silent.pendingMode {n : Nat} {a : Apu} (h : a.Silent n) : a.pendingMode.Silent n := by
  unfold Apu.pendingMode
  split
  · exact h
  · have hb : ({ a with seq := { a.seq with pendingDelay := a.seq.pendingDelay - 1 } } : Apu).Silent n :=
      ⟨h.lens, h.remaining, h.dmcIrq, h.seqIrq, h.cycle⟩
    dsimp only
    split
    · exact hb.applyFrameMode _
    · exact hb

/-- Before the first event of either schedule the sequencer counts a cycle and does nothing else (R465). -/
theorem Apu.sequencerStep_early {a : Apu} (h : a.pendingMode.seq.cycle + 1 < 7457) :
    a.sequencerStep = { a.pendingMode with seq := { a.pendingMode.seq with cycle := a.pendingMode.seq.cycle + 1 } } := by
  unfold Apu.sequencerStep Apu.fourStep Apu.fiveStep
  dsimp only
  repeat' split
  all_goals first | omega | rfl

theorem Dmc.timerStep_irqFlag (d : Dmc) : d.timerStep.1.irqFlag = d.irqFlag := by
  unfold Dmc.timerStep Dmc.clockOutput Dmc.nextByte
  dsimp only
  repeat' split
  all_goals rfl

/-- An early cycle keeps a silent APU silent. -/
theorem Apu.Silent.apuStep {n : Nat} {a : Apu} (h : a.Silent n) (hn : n + 1 < 7457) (cfg : Config) (cyc : Nat) :
    (a.apuStep cfg cyc).1.Silent (n + 1) := by
  have hp := h.pendingMode
  have hcyc := hp.cycle
  have hs : a.sequencerStep.Silent (n + 1) := by
    rw [Apu.sequencerStep_early (by omega)]
    exact ⟨hp.lens, hp.remaining, hp.dmcIrq, hp.seqIrq, by dsimp only; omega⟩
  obtain ⟨-, -, -, -, -, hrem, -⟩ := a.sequencerStep.dmc.timerStep_fields
  refine ⟨?_, hrem.trans hs.remaining, (Dmc.timerStep_irqFlag _).trans hs.dmcIrq, hs.seqIrq, hs.cycle⟩
  have hl := hs.lens
  unfold Apu.apuStep
  dsimp only
  split <;> simpa using hl

/-- Without a pending mode write an early cycle is one more cycle of the sequencer. -/
theorem Apu.apuStep_seq {a : Apu} (hd : a.seq.pendingDelay = 0) (hn : a.seq.cycle + 1 < 7457) (cfg : Config) (cyc : Nat) :
    (a.apuStep cfg cyc).1.seq = { a.seq with cycle := a.seq.cycle + 1 } := by
  have hp : a.pendingMode = a := by unfold Apu.pendingMode; rw [if_pos hd]
  show a.sequencerStep.seq = _
  rw [Apu.sequencerStep_early (by rw [hp]; exact hn), hp]

/-- The warm reset restarts the sequencer in its kept mode and clears its flag (R48, R562). -/
theorem Apu.warmReset_seq (a : Apu) : a.warmReset.seq = { a.seq with irqFlag := false, step := 0, cycle := 0 } := by
  have hmode : (if a.seq.mode then (0x80 : Byte) else 0).getLsbD 7 = a.seq.mode := by cases a.seq.mode <;> rfl
  show (Apu.applyFrameMode (if a.seq.mode then 0x80 else 0) _).seq = _
  rw [Apu.applyFrameMode_seq, hmode]
  rfl

/-- The warm reset silences the APU. -/
theorem Apu.warmReset_silent (a : Apu) : a.warmReset.Silent 0 := by
  have hb : ({ (a.writeEnable 0).1 with seq := { (a.writeEnable 0).1.seq with irqFlag := false } } : Apu).Silent a.seq.cycle := by
    refine ⟨?_, rfl, rfl, rfl, Nat.le_refl _⟩
    simp [Apu.writeEnable, LengthCounter.enable]
  obtain ⟨hlens, hrem, hdmc, hseq, -⟩ := hb.applyFrameMode (if (a.writeEnable 0).1.seq.mode then 0x80 else 0)
  exact ⟨hlens, hrem, hdmc, hseq, by rw [Apu.warmReset_seq]⟩

/-! ### A mapper without a scanline interrupt (R540 to R545) -/

/-- The scanline counter, where there is one, is disabled and asserts nothing. -/
def Mapper.IrqOff (m : Mapper) : Prop := ∀ r, m = .mmc3 r → r.irqEnabled = false ∧ r.irqFlag = false

theorem Mapper.IrqOff.line {m : Mapper} (h : m.IrqOff) : m.irqLine = false := by
  cases m with
  | mmc3 r => exact (h r rfl).2
  | _ => rfl

/-- A disabled counter asserts nothing when it is clocked. -/
theorem Mmc3.clockCounter_off {r : Mmc3} (he : r.irqEnabled = false) (hf : r.irqFlag = false) :
    r.clockCounter.irqEnabled = false ∧ r.clockCounter.irqFlag = false := by
  unfold Mmc3.clockCounter
  dsimp only
  split <;> simp [he, hf]

theorem Mapper.IrqOff.watch {m : Mapper} (h : m.IrqOff) (now : Nat) (a : BitVec 14) : (m.watch now a).IrqOff := by
  cases m with
  | mmc3 r =>
    obtain ⟨he, hf⟩ := h r rfl
    rintro q hq
    cases hq
    unfold Mmc3.watch
    dsimp only
    repeat' split
    all_goals first | exact ⟨he, hf⟩ | exact Mmc3.clockCounter_off he hf
  | _ => exact h

theorem Mapper.irqOff_powerOn (m : Mapper) : m.powerOn.IrqOff := by
  cases m <;> rintro r hr <;> cases hr
  exact ⟨rfl, rfl⟩

theorem Mapper.banks_powerOn (m : Mapper) : m.powerOn.banks = m.powerOn := by
  cases m <;> rfl

theorem Ppu.notify_irqOff (p : Ppu) (now : Nat) {c : Cart} (h : c.mapper.IrqOff) : (p.notify now c).mapper.IrqOff := by
  unfold Ppu.notify
  split
  · exact h.watch _ _
  · exact h

/-- A read of a PPU register shows the cartridge addresses and no more. -/
theorem Ppu.regRead_irqOff (mem : Buffers) (now k r : Nat) (p : Ppu) {c : Cart} (h : c.mapper.IrqOff) :
    (p.regRead mem now k r c).2.2.mapper.IrqOff := by
  unfold Ppu.regRead
  split
  · exact h
  · exact h
  · exact Ppu.notify_irqOff _ now (h.watch _ _)
  · exact h

/-- A read of a PPU register leaves the toggle clear (R403). -/
theorem Ppu.regRead_w (mem : Buffers) (now k r : Nat) {p : Ppu} (h : p.w = false) (c : Cart) : (p.regRead mem now k r c).2.1.w = false := by
  unfold Ppu.regRead
  split
  · rfl
  · exact h
  · exact h
  · exact h

/-! ### What answers a read -/

/-- The ways a read is answered: by nothing that has a state, by a PPU register, by the APU's status, by a controller port (R68). -/
theorem busAnswer_cases {M : State → Prop} (a : Word) (s : State) (hplain : ∀ n, M { s with draws := n })
    (hppu : 0x2000 ≤ a.toNat → a.toNat < 0x4000 → M (readPpuReg a s).2)
    (hapu : ∀ n, M { s with draws := n, apu := { s.apu with seq := { s.apu.seq with irqFlag := false } } })
    (hpad : ∀ n p, M { s with draws := n, pads := p }) : M (busAnswer a s).2 := by
  have hfloat : ∀ x, ∃ n, (floatingBits x s).2 = { s with draws := n } := by
    intro x
    rcases floatingBits_state x s with e | e <;> exact ⟨_, e⟩
  have hopen : M (openBus a s).2 := by
    rcases openBus_state a s with e | e <;> rw [e] <;> exact hplain _
  unfold busAnswer
  split
  · exact hplain s.draws
  split
  · exact hppu (by omega) ‹_›
  split
  · obtain ⟨n, e⟩ := hfloat 0x4015
    show M { (floatingBits 0x4015 s).2 with apu := _ }
    rw [e]
    exact hapu n
  split
  · obtain ⟨n, e⟩ := hfloat a
    show M { (floatingBits a s).2 with pads := _ }
    rw [e]
    exact hpad n _
  split
  · obtain ⟨n, e⟩ := hfloat a
    show M { (floatingBits a s).2 with pads := _ }
    rw [e]
    exact hpad n _
  split
  · exact hopen
  · unfold readCartridge
    split
    · exact hplain s.draws
    · exact hopen

/-! ### The machine during the reset sequence -/

/-- The interrupt unit with no flag set and no line seen (R28). -/
def IntUnit.rest : IntUnit := { nmi := ⟨false, false⟩, irq := ⟨false, false⟩, prevNmiLine := false }

/-- Nothing is pending: no fault, no interrupt and no source that could raise one, no transfer and none that could start;
at most `n` cycles of the frame sequencer. -/
structure State.AtRest (n : Nat) (s : State) : Prop where
  fault : s.fault = none
  int : s.int = .rest
  dma : s.dma = .powerOn
  ctrl : s.ppu.ctrl = 0
  mask : s.ppu.mask = 0
  w : s.ppu.w = false
  apu : s.apu.Silent n
  mapper : s.cart.mapper.IrqOff

theorem State.AtRest.rendering {n : Nat} {s : State} (h : s.AtRest n) : s.ppu.rendering = false := by
  unfold Ppu.rendering
  rw [h.mask]
  rfl

theorem State.AtRest.nmiLine {n : Nat} {s : State} (h : s.AtRest n) : s.nmiLine = false := by
  unfold State.nmiLine Ppu.nmiLine
  rw [h.ctrl]
  simp

theorem State.AtRest.irqLine {n : Nat} {s : State} (h : s.AtRest n) : s.irqLine = false := by
  unfold State.irqLine Apu.irqLine
  rw [h.apu.seqIrq, h.apu.dmcIrq, h.mapper.line]
  rfl

theorem State.AtRest.setCpu {n : Nat} {s : State} (h : s.AtRest n) (c : Cpu) : (s.setCpu c).AtRest n :=
  ⟨h.fault, h.int, h.dma, h.ctrl, h.mask, h.w, h.apu, h.mapper⟩

theorem State.AtRest.advance {n : Nat} {s : State} (h : s.AtRest n) (u : Nat) : (advance u s).AtRest n := by
  have f := advance_dotFrame u s
  exact ⟨h.fault, h.int, h.dma, f.ctrl.trans h.ctrl, f.mask.trans h.mask, f.w.trans h.w, h.apu, by
    rw [(advance_idle u h.rendering).2]; exact h.mapper⟩

theorem State.AtRest.apuCycle {n : Nat} {s : State} (h : s.AtRest n) (hn : n + 1 < 7457) : (apuCycle s).AtRest (n + 1) := by
  refine ⟨h.fault, h.int, ?_, h.ctrl, h.mask, h.w, h.apu.apuStep hn _ _, h.mapper⟩
  show s.dma.request (s.apu.apuStep s.cfg s.clk.cyc).2 = _
  rw [Apu.apuStep_request h.apu.remaining]
  exact h.dma

theorem State.AtRest.busRead {n : Nat} {s : State} (h : s.AtRest n) (a : Word) : (busRead a s).2.AtRest n := by
  have hb : (busAnswer a s).2.AtRest n := by
    refine busAnswer_cases (M := State.AtRest n) a s (fun _ => ?_) (fun _ _ => ?_) (fun _ => ?_) (fun _ _ => ?_)
    · exact ⟨h.fault, h.int, h.dma, h.ctrl, h.mask, h.w, h.apu, h.mapper⟩
    · obtain ⟨hctrl, hmask, -⟩ := s.ppu.regRead_frame s.mem s.dots (muteDots s.cfg) (a.toNat % 8) s.cart
      exact ⟨h.fault, h.int, h.dma, hctrl.trans h.ctrl, hmask.trans h.mask, Ppu.regRead_w _ _ _ _ h.w _, h.apu,
        Ppu.regRead_irqOff _ _ _ _ _ h.mapper⟩
    · exact ⟨h.fault, h.int, h.dma, h.ctrl, h.mask, h.w, ⟨h.apu.lens, h.apu.remaining, h.apu.dmcIrq, rfl, h.apu.cycle⟩, h.mapper⟩
    · exact ⟨h.fault, h.int, h.dma, h.ctrl, h.mask, h.w, h.apu, h.mapper⟩
  exact ⟨hb.fault, hb.int, hb.dma, hb.ctrl, hb.mask, hb.w, hb.apu, hb.mapper⟩

theorem State.AtRest.sampleLines {n : Nat} {s : State} (h : s.AtRest n) : (sampleLines s).AtRest n := by
  refine ⟨h.fault, ?_, h.dma, h.ctrl, h.mask, h.w, h.apu, h.mapper⟩
  rw [sampleLines_int, h.nmiLine, h.irqLine, h.int]
  rfl

/-- A read of a machine at rest is one read cycle, without a transfer before it. -/
theorem State.AtRest.memRead_eq {n : Nat} {s : State} (h : s.AtRest n) (a : Word) : memRead a s = readCycle a s := by
  unfold memRead
  rw [if_neg (by simp [h.fault]), if_neg (by simp [h.dma, Dma.powerOn])]

/-- A read cycle, part by part (R84). -/
theorem readCycle_state (a : Word) (s : State) :
    (readCycle a s).2 = Machine.advance 7 (Machine.sampleLines (Machine.busRead a (startTick .read s)).2) := rfl

theorem State.AtRest.startTick {n : Nat} {s : State} (h : s.AtRest n) (hn : n + 1 < 7457) : (startTick .read s).AtRest (n + 1) := by
  have hc : ({ s with clk := { s.clk with cyc := s.clk.cyc + 1 } } : State).AtRest n :=
    ⟨h.fault, h.int, h.dma, h.ctrl, h.mask, h.w, h.apu, h.mapper⟩
  exact (hc.advance 5).apuCycle hn

theorem State.AtRest.read {n : Nat} {s : State} (h : s.AtRest n) (hn : n + 1 < 7457) (a : Word) : (memRead a s).2.AtRest (n + 1) := by
  rw [h.memRead_eq, readCycle_state]
  exact ((h.startTick hn).busRead a).sampleLines.advance 7

/-! ### The raster on the first scanline, without rendering (R385, R421) -/

/-- The next dot is number `d` of scanline 0 of frame 0; nothing is rendered and no vertical blank is muted. -/
structure Ppu.TopRow (d : Nat) (p : Ppu) : Prop where
  scanline : p.scanline = 0
  dot : p.dot = d
  frame : p.frame = 0
  suppress : p.suppressVbl = false
  rendering : p.rendering = false

/-- Such a dot moves the raster on and at most writes a pixel. -/
theorem Ppu.TopRow.dotStep {d : Nat} {p : Ppu} (h : p.TopRow d) (hd : d < 340) (mem : Buffers) (now : Nat) (c : Cart) :
    ∃ px, p.dotStep mem now c = ({ p with dot := d + 1, pixels := px }, c) := by
  have ha : p.dotActions mem now c = (p.backdropDot p.scanline d, c) := by
    unfold Ppu.dotActions Ppu.visibleDot
    rw [if_pos (by rw [h.scanline]; decide), h.rendering, h.dot]
    rfl
  have hv : ∀ q : Ppu, q.advance p.scanline p.dot = { q with dot := d + 1 } := by
    intro q
    unfold Ppu.advance
    rw [h.scanline, h.dot, if_neg (by omega), if_neg (by omega)]
  unfold Ppu.dotStep
  rw [ha]
  dsimp only
  rw [hv]
  unfold Ppu.backdropDot
  split <;> exact ⟨_, rfl⟩

theorem Ppu.TopRow.runDots (mem : Buffers) (n : Nat) : ∀ {d : Nat} {p : Ppu}, p.TopRow d → d + n ≤ 340 → ∀ (k : Nat) (c : Cart),
    ∃ px, runDots mem n k p c = ({ p with dot := d + n, pixels := px }, c) := by
  induction n with
  | zero =>
    intro d p h _ k c
    exact ⟨p.pixels, by rw [← h.dot]; rfl⟩
  | succ n ih =>
    intro d p h hd k c
    obtain ⟨px, e⟩ := h.dotStep (by omega) mem (k / 4) c
    obtain ⟨py, e'⟩ := ih (d := d + 1) (p := { p with dot := d + 1, pixels := px }) ⟨h.scanline, rfl, h.frame, h.suppress, h.rendering⟩
      (by omega) (k + 4) c
    refine ⟨py, ?_⟩
    unfold Machine.runDots
    rw [e]
    dsimp only
    rw [e', Nat.add_right_comm]
    rfl

/-- The processor stands at dot `d` of the first scanline, and if `quiet` holds it is still `p` but for the pixels drawn. -/
def Ppu.Drawn (quiet : Prop) (p : Ppu) (d : Nat) (q : Ppu) : Prop := q.TopRow d ∧ (quiet → q = { p with dot := d, pixels := q.pixels })

theorem Ppu.Drawn.advance {quiet : Prop} {p : Ppu} {d n u : Nat} {s : State} (h : p.Drawn quiet d s.ppu)
    (hn : dotsUntil (s.clk.mclk + u - s.cfg.ppuOffset.val) s.clk.ppuClk = n) (hd : d + n ≤ 340) : p.Drawn quiet (d + n) (Machine.advance u s).ppu := by
  obtain ⟨px, e⟩ := h.1.runDots s.mem n hd s.clk.ppuClk s.cart
  have ha : (Machine.advance u s).ppu = { s.ppu with dot := d + n, pixels := px } := by
    show (Machine.runDots s.mem (dotsUntil _ s.clk.ppuClk) s.clk.ppuClk s.ppu s.cart).1 = _
    rw [hn, e]
  rw [ha]
  refine ⟨⟨h.1.scanline, rfl, h.1.frame, h.1.suppress, h.1.rendering⟩, fun hq => ?_⟩
  rw [h.2 hq]

/-- A register read on scanline 0 mutes nothing and leaves the raster where it is. -/
theorem Ppu.TopRow.regRead {d : Nat} {p : Ppu} (h : p.TopRow d) (mem : Buffers) (now k r : Nat) (c : Cart) : (p.regRead mem now k r c).2.1.TopRow d := by
  have hw : p.vblankWithin k = false := by unfold Ppu.vblankWithin; rw [h.scanline]; rfl
  unfold Ppu.regRead
  split
  · exact ⟨h.scanline, h.dot, h.frame, by simp [Ppu.readStatus, hw, h.suppress], h.rendering⟩
  · exact ⟨h.scanline, h.dot, h.frame, h.suppress, h.rendering⟩
  · exact ⟨h.scanline, h.dot, h.frame, h.suppress, h.rendering⟩
  · exact h

/-- Only a read of the PPU's own registers changes more of it. -/
theorem Ppu.Drawn.busRead {quiet : Prop} {p : Ppu} {d : Nat} {s : State} {a : Word} (h : p.Drawn quiet d s.ppu)
    (ha : quiet → ¬ (0x2000 ≤ a.toNat ∧ a.toNat < 0x4000)) : p.Drawn quiet d (Machine.busRead a s).2.ppu :=
  busAnswer_cases (M := fun t => p.Drawn quiet d t.ppu) a s (fun _ => h) (fun h1 h2 => ⟨h.1.regRead _ _ _ _ _, fun hq => absurd ⟨h1, h2⟩ (ha hq)⟩)
    (fun _ => h) (fun _ _ => h)

/-- A read cycle on a caught-up machine runs three dots. -/
theorem Ppu.Drawn.readCycle {quiet : Prop} {p : Ppu} {d : Nat} {s : State} {a : Word} (h : p.Drawn quiet d s.ppu) (hc : s.ClockOk)
    (h1 : 1 ≤ s.clk.cyc) (hd : d + 3 ≤ 340) (ha : quiet → ¬ (0x2000 ≤ a.toNat ∧ a.toNat < 0x4000)) :
    p.Drawn quiet (d + 3) (Machine.readCycle a s).2.ppu := by
  obtain ⟨hm, hp⟩ := hc
  have hoff := s.cfg.ppuOffset.isLt
  let s0 : State := { s with clk := { s.clk with cyc := s.clk.cyc + 1 } }
  obtain ⟨n, hn⟩ : ∃ n, dotsUntil (s0.clk.mclk + 5 - s0.cfg.ppuOffset.val) s0.clk.ppuClk = n := ⟨_, rfl⟩
  have hn3 : n ≤ 3 := by
    have hn' : (s.clk.mclk + 5 - s.cfg.ppuOffset.val - s.clk.ppuClk) / 4 = n := hn
    omega
  have b := (Ppu.Drawn.advance (s := s0) h hn (by omega)).busRead (s := startTick .read s) ha
  have hclk : (sampleLines (Machine.busRead a (startTick .read s)).2).clk = (Machine.advance 5 s0).clk := by
    rw [sampleLines_clk, busRead_clk]
    rfl
  have hcfg : (sampleLines (Machine.busRead a (startTick .read s)).2).cfg = s.cfg :=
    ((readFrame_parts.startTick .read s).trans (readFrame_parts.access a _)).cfg
  have e : d + 3 = d + n + (3 - n) := by omega
  rw [readCycle_state, e]
  refine Ppu.Drawn.advance (s := sampleLines (Machine.busRead a (startTick .read s)).2) b ?_ (by omega)
  rw [hclk, hcfg, advance_clk]
  have hn' : (s.clk.mclk + 5 - s.cfg.ppuOffset.val - s.clk.ppuClk) / 4 = n := hn
  show (s.clk.mclk + 5 + 7 - s.cfg.ppuOffset.val - (s.clk.ppuClk + 4 * dotsUntil (s0.clk.mclk + 5 - s0.cfg.ppuOffset.val) s0.clk.ppuClk)) / 4 = _
  rw [hn]
  omega

/-! ### The reset sequence, cycle by cycle (R561) -/

/-- The machine as the sequence starts: nothing pending, no transfer. -/
def resetStart (s : State) : State :=
  { s with int := .rest, dma := { s.dma with haltReq := false, spriteActive := false, dmcActive := false, dmcWait := 0 } }

/-- The machine before the vector is read: `S` decremented three times, `I` set. -/
def resetMasked (s : State) : State :=
  let t := resetPush (resetPush (resetPush (dummyPc (dummyPc (resetStart s)))))
  t.setP { t.cpu.p with i := true }

theorem resetSequence_eq (s : State) : resetSequence s = loadPc 0xFFFC (resetMasked s) := rfl

theorem resetPush_cpu (s : State) : (resetPush s).cpu = { s.cpu with sp := s.cpu.sp - 1 } := by
  show { (dummyStack s).cpu with sp := (dummyStack s).cpu.sp - 1 } = _
  rw [dummyStack_cpu]

theorem resetPush_untouched (s : State) : Untouched s (resetPush s) :=
  (dummyRead_frame _ s).toUntouched.trans (State.setCpu_untouched _ _)

theorem resetMasked_cpu (s : State) : (resetMasked s).cpu = { s.cpu with sp := s.cpu.sp - 3, p := { s.cpu.p with i := true } } := by
  have hs : s.cpu.sp - 1 - 1 - 1 = s.cpu.sp - 3 := by bv_omega
  obtain ⟨t, ht⟩ : ∃ t, resetPush (resetPush (resetPush (dummyPc (dummyPc (resetStart s))))) = t := ⟨_, rfl⟩
  have hc : t.cpu = { s.cpu with sp := s.cpu.sp - 3 } := by
    rw [← ht]
    simp only [resetPush_cpu, dummyPc_cpu]
    rw [← hs]
    rfl
  have hm : resetMasked s = t.setP { t.cpu.p with i := true } := by rw [← ht]; rfl
  rw [hm]
  show { t.cpu with p := { t.cpu.p with i := true } } = _
  rw [hc]

theorem resetMasked_untouched (s : State) : Untouched s (resetMasked s) := by
  have h0 : Untouched s (resetStart s) := ⟨rfl, rfl, rfl, rfl, rfl, rfl, rfl, rfl, rfl, rfl, rfl, rfl, rfl⟩
  have h2 : Untouched (resetStart s) (dummyPc (dummyPc (resetStart s))) := ((dummyRead_frame _ _).trans (dummyRead_frame _ _)).toUntouched
  exact h0.trans (h2.trans ((resetPush_untouched _).trans ((resetPush_untouched _).trans ((resetPush_untouched _).trans
    (State.setCpu_untouched _ _)))))

theorem resetSequence_untouched (s : State) : Untouched s (resetSequence s) := (resetMasked_untouched s).trans (loadPc_untouched _ _)

/-- The sequence changes `S`, `I` and `PC`. -/
theorem resetSequence_cpu (s : State) :
    (resetSequence s).cpu = { s.cpu with pc := (resetSequence s).cpu.pc, sp := s.cpu.sp - 3, p := { s.cpu.p with i := true } } := by
  rw [resetSequence_eq, loadPc_cpu, resetMasked_cpu]

/-- A vector in plain memory is loaded whole. -/
theorem resetSequence_pc {s : State} {l h : Byte} (hf : s.fault = none) (hl : (resetSequence s).plainByte 0xFFFC = some l)
    (hh : (resetSequence s).plainByte 0xFFFD = some h) : (resetSequence s).cpu.pc = word h l := by
  have hu := loadPc_untouched 0xFFFC (resetMasked s)
  rw [resetSequence_eq, loadPc_plain ((resetMasked_untouched s).fault.trans hf)
    ((State.plainByte_congr hu _).symm.trans hl) ((State.plainByte_congr hu _).symm.trans hh)]

/-- What every read of the sequence carries on, from `PC`, from the stack page or from the vector, holds after its seven reads. -/
theorem resetSequence_induction {P : Nat → State → Prop} {s : State} (hset : ∀ n t c, P n t → P n (t.setCpu c))
    (hread : ∀ n t a, n < 7 → (a = s.cpu.pc ∨ ¬ (0x2000 ≤ a.toNat ∧ a.toNat < 0x4000)) → P n t → P (n + 1) (memRead a t).2)
    (h0 : P 0 (resetStart s)) : P 7 (resetSequence s) := by
  have hpush : ∀ n t, n < 7 → P n t → P (n + 1) (resetPush t) := fun n t hn h =>
    hset _ _ _ (hread n t _ hn (.inr (by rw [stackAddr_toNat]; omega)) h)
  have h1 : P 1 (dummyPc (resetStart s)) := hread 0 _ _ (by decide) (.inl rfl) h0
  have h2 : P 2 (dummyPc (dummyPc (resetStart s))) := hread 1 _ _ (by decide) (.inl (by rw [dummyPc_cpu]; rfl)) h1
  have h5 := hpush 4 _ (by decide) (hpush 3 _ (by decide) (hpush 2 _ (by decide) h2))
  have hm : P 5 (resetMasked s) := hset _ _ _ h5
  have h6 := hread 5 _ 0xFFFC (by decide) (.inr (by decide)) hm
  exact hset _ _ _ (hread 6 _ (0xFFFC + 1) (by decide) (.inr (by decide)) h6)

/-! ### What the reset sequence carries on -/

/-- A read cycle of a machine at rest, without a pending mode write, is one more cycle of the sequencer. -/
theorem State.AtRest.read_seq {n : Nat} {s : State} (h : s.AtRest n) (hn : n + 1 < 7457) (hd : s.apu.seq.pendingDelay = 0) (a : Word) :
    (memRead a s).2.apu.seq = { s.apu.seq with cycle := s.apu.seq.cycle + 1 } := by
  have hc := h.apu.cycle
  have hs : (Machine.startTick .read s).apu.seq = { s.apu.seq with cycle := s.apu.seq.cycle + 1 } := Apu.apuStep_seq hd (by omega) _ _
  have hf := (h.startTick hn).apu.seqIrq
  have hb : (busAnswer a (Machine.startTick .read s)).2.apu.seq = (Machine.startTick .read s).apu.seq :=
    busAnswer_cases (M := fun t => t.apu.seq = (Machine.startTick .read s).apu.seq) a _ (fun _ => rfl) (fun _ _ => rfl)
      (fun _ => by rw [← hf]) (fun _ _ => rfl)
  rw [h.memRead_eq]
  exact hb.trans hs

/-- After `n` cycles of the sequence that starts at `s`: the machine at rest,
the clock and the sequencer `n` cycles on, and the raster `3 n` dots on if the clocks were in step. -/
structure ResetRun (s : State) (n : Nat) (t : State) : Prop where
  rest : t.AtRest n
  cyc : t.clk.cyc = s.clk.cyc + n
  seq : s.apu.seq.pendingDelay = 0 → t.apu.seq = { s.apu.seq with cycle := n }
  raster : s.ClockOk → 1 ≤ s.clk.cyc →
    t.ClockOk ∧ s.ppu.Drawn (¬ (0x2000 ≤ s.cpu.pc.toNat ∧ s.cpu.pc.toNat < 0x4000)) (3 * n) t.ppu

theorem ResetRun.setCpu {s t : State} {n : Nat} (h : ResetRun s n t) (c : Cpu) : ResetRun s n (t.setCpu c) :=
  ⟨h.rest.setCpu c, h.cyc, h.seq, h.raster⟩

theorem ResetRun.read {s t : State} {n : Nat} (h : ResetRun s n t) (hn : n < 7) {a : Word}
    (ha : a = s.cpu.pc ∨ ¬ (0x2000 ≤ a.toNat ∧ a.toNat < 0x4000)) : ResetRun s (n + 1) (memRead a t).2 := by
  have hr := h.rest
  have hcyc := h.cyc
  obtain ⟨hc, -⟩ := readCycle_clk a t
  refine ⟨hr.read (by omega) a, ?_, fun hd => ?_, fun hk h1 => ?_⟩
  · rw [hr.memRead_eq, hc, hcyc, Nat.add_assoc]
  · have hs := h.seq hd
    rw [hr.read_seq (by omega) (by rw [hs]; exact hd), hs]
  · obtain ⟨hok, hp⟩ := h.raster hk h1
    rw [hr.memRead_eq]
    refine ⟨(clock_cycles.read a t ⟨hr.fault, hok⟩).2, hp.readCycle hok (by omega) (by omega) fun hq => ?_⟩
    rcases ha with rfl | ha
    · exact hq
    · exact ha

/-- The sequence that starts at rest, on the first dot and with the sequencer at 0, runs its seven cycles. -/
theorem resetSequence_run {s : State} (h : (resetStart s).AtRest 0) (hc : s.apu.seq.cycle = 0) (hp : s.ppu.TopRow 0) :
    ResetRun s 7 (resetSequence s) := by
  refine resetSequence_induction (P := ResetRun s) (fun _ _ c h => h.setCpu c) (fun _ _ _ hn ha h => h.read hn ha)
    ⟨h, rfl, fun _ => ?_, fun hk _ => ⟨hk, hp, fun _ => ?_⟩⟩
  · show s.apu.seq = _
    rw [← hc]
  · show s.ppu = { s.ppu with dot := 0 }
    rw [← hp.dot]

/-! ### The warm reset (R562) -/

/-- The cartridge of a warm reset: the mapper's registers at power-on, the tables remapped. -/
structure ResetCart (s : State) (c : Cart) : Prop where
  mapper : c.mapper = s.cart.mapper.powerOn
  mapped : c.mapped

/-- Without a fault and with a legal cartridge a warm reset is the reset sequence from the "reset" values. -/
theorem warmReset_eq {s : State} (hf : s.fault = none) (hc : s.CartInv) : ∃ c, ResetCart s c ∧ warmReset s = resetSequence (resetValues c s) := by
  obtain ⟨c, hr⟩ := Cart.remap_isSome (c := { s.cart with mapper := s.cart.mapper.powerOn }) hc.1
  refine ⟨c, ⟨(Cart.remap_same hr).1, Cart.remap_mapped hr⟩, ?_⟩
  unfold warmReset
  rw [hf, hr]

theorem warmReset_faulted {s : State} {r : Fault} (h : s.fault = some r) : warmReset s = s := by
  unfold warmReset
  rw [h]

/-- The "reset" values leave nothing pending. -/
theorem resetValues_atRest {s : State} {c : Cart} (hf : s.fault = none) (hc : ResetCart s c) : (resetStart (resetValues c s)).AtRest 0 :=
  ⟨hf, rfl, rfl, rfl, rfl, rfl, s.apu.warmReset_silent, by
    show c.mapper.IrqOff
    rw [hc.mapper]
    exact Mapper.irqOff_powerOn _⟩

theorem resetValues_run {s : State} {c : Cart} (hf : s.fault = none) (hc : ResetCart s c) :
    ResetRun (resetValues c s) 7 (resetSequence (resetValues c s)) :=
  resetSequence_run (resetValues_atRest hf hc) (by rw [show (resetValues c s).apu.seq = _ from Apu.warmReset_seq s.apu])
    ⟨rfl, rfl, rfl, rfl, (resetValues_atRest hf hc).rendering⟩

/-- Settles O9: the warm reset is the reset sequence from the "reset" values, and its seven reads keep the machine at rest
while the clock, the sequencer and the raster run on. -/
theorem warmResetState : Obligations.WarmResetState := by
  refine ⟨fun s r h => by rw [warmReset_faulted h, h], fun s hf hi => ?_⟩
  obtain ⟨c, hc, e⟩ := warmReset_eq hf hi
  rw [e]
  have u := resetSequence_untouched (resetValues c s)
  have run := resetValues_run hf hc
  have hseq : (resetValues c s).apu.seq = { s.apu.seq with irqFlag := false, step := 0, cycle := 0 } := Apu.warmReset_seq s.apu
  have hbanks : (resetSequence (resetValues c s)).cart.mapper.banks = s.cart.mapper.powerOn := by
    have hb : (resetSequence (resetValues c s)).cart.mapper.banks = c.mapper.banks := congrArg Cart.mapper u.banks
    rw [hb, hc.mapper, Mapper.banks_powerOn]
  have hinhibit : (resetSequence (resetValues c s)).apu.seq.irqInhibit = s.apu.seq.irqInhibit := by
    have hs : (resetSequence (resetValues c s)).apu.seq.irqInhibit = (resetValues c s).apu.seq.irqInhibit :=
      congrArg ApuSettings.irqInhibit u.settings
    rw [hs, hseq]
  obtain ⟨rest, hcyc, hrun, hraster⟩ := run
  refine ⟨resetSequence_cpu _, u.mem, rest.fault, u.cfg, u.palette, rest.ctrl, rest.mask, u.tempAddr, u.fineX, hcyc, u.buttons0,
    Cart.mapped_of_bankView u.banks hc.mapped, hbanks, fun lo hi => resetSequence_pc hf, u.buttons1, u.strobe, rest.int, rest.dma,
    rest.apu.lens, rest.apu.remaining, rest.apu.dmcIrq, rest.apu.seqIrq, hinhibit, fun hd => ?_, rest.w, fun hk h1 => ?_⟩
  · rw [hrun (by rw [hseq]; exact hd), hseq]
  · obtain ⟨-, row, drawn⟩ := hraster (hk hf) h1
    exact ⟨row.scanline, row.dot, row.frame, row.suppress, drawn⟩

end Sys2Proof.Machine
end

section
/-! SUPPORT. What every step keeps of time and of the ROM (R63, R64, R69, R80 to R83). -/

namespace Sys2Proof.Machine

/-- Settles O12: every bus cycle, DMA's included, keeps the clocks in step; after a `JAM` nothing is claimed. -/
theorem stepKeepsClocks : Obligations.StepKeepsClocks :=
  fun _ _ h e => clock_keeps.step h (fun _ _ _ hf => by cases hf) e

/-! ### Where a mapped cartridge can be written -/

/-- A bank mapped after some `map` calls was mapped before, or names the buffer of one of the calls (R61). -/
theorem Cart.mapAll_bank {c : Cart} {size : Nat} {l : List MapCall} {sp sq : Space} (h : c.mapAll size l sp = some sq) {a : Nat}
    (ha : a / 1024 < sp.length) {b : Bank} (hb : sq.bank a = some b) :
    sp.bank a = some b ∨ ∃ call ∈ l, b.buf = call.buf ∧ b.writable = call.writable := by
  induction l generalizing sp with
  | nil => cases h; exact .inl hb
  | cons call rest ih =>
    unfold Cart.mapAll Space.map? at h
    split at h
    · rename_i sp' hs
      split at hs
      · cases hs
        obtain hm | ⟨call', hc, he⟩ := ih h (by rw [Space.length_mapFrom]; exact ha)
        · unfold Space.bank at hm ⊢
          rw [Space.getD_mapFrom _ _ _ ha] at hm
          unfold MapCall.entry at hm
          split at hm
          · cases hm
            exact .inr ⟨call, List.mem_cons_self .., rfl, rfl⟩
          · exact .inl hm
        · exact .inr ⟨call', List.mem_cons_of_mem _ hc, he⟩
      · cases hs
    · cases h

/-- A bank of a table mapped from nothing is one of the calls'; a table has no bank above its length. -/
theorem Cart.bank_of_mapAll {c : Cart} {size n : Nat} {l : List MapCall} {sq : Space} (h : c.mapAll size l (Space.unmapped n) = some sq)
    {a : Nat} (ha : a / 1024 < n) {b : Bank} (hb : sq.bank a = some b) : ∃ call ∈ l, b.buf = call.buf ∧ b.writable = call.writable := by
  obtain hm | h := Cart.mapAll_bank h (by simpa [Space.unmapped] using ha) hb
  · simp [Space.bank, Space.unmapped, ha] at hm
  · exact h

theorem Cart.prgCalls_readOnly (c : Cart) : ∀ call ∈ c.prgCalls, call.writable = false := by
  have hw : ∀ u t k, (c.prgWindow u t k).writable = false := fun _ _ _ => rfl
  intro call hc
  unfold Cart.prgCalls Cart.nromPrg Cart.prg32 Cart.prg16 Cart.prg8 at hc
  repeat' split at hc
  all_goals
    simp only [List.mem_cons, List.not_mem_nil, or_false] at hc
    rcases hc with rfl | rfl | rfl | rfl <;> exact hw _ _ _

/-- What the CPU's space lets through to a buffer is work RAM or PRG RAM (R63, R66, R548). -/
theorem Cart.cpuCalls_writable (c : Cart) : ∀ call ∈ c.cpuCalls, call.writable = true → call.buf = .ram ∨ call.buf = .prgRam := by
  intro call hc hw
  unfold Cart.cpuCalls at hc
  rw [List.mem_append] at hc
  obtain hc | hc := hc
  · simp only [List.mem_cons, List.not_mem_nil, or_false] at hc
    rcases hc with rfl | rfl | rfl | rfl | rfl
    · exact .inl rfl
    · exact .inl rfl
    · exact .inl rfl
    · exact .inl rfl
    · exact .inr rfl
  · rw [c.prgCalls_readOnly call hc] at hw
    cases hw

theorem Cart.chrCalls_writable (c : Cart) : ∀ call ∈ c.chrCalls, call.buf = .chr ∧ call.writable = c.chrIsRam := by
  have hw : ∀ u t k, (c.chrWindow u t k).buf = .chr ∧ (c.chrWindow u t k).writable = c.chrIsRam := fun _ _ _ => ⟨rfl, rfl⟩
  intro call hc
  unfold Cart.chrCalls at hc
  repeat' split at hc
  all_goals
    simp only [List.mem_cons, List.not_mem_nil, or_false] at hc
    rcases hc with rfl | rfl | rfl | rfl | rfl | rfl | rfl | rfl <;> exact hw _ _ _

/-- What the PPU's space lets through to a buffer is nametable RAM, or CHR where it is RAM (R63, R77, R521). -/
theorem Cart.ppuCalls_writable (c : Cart) :
    ∀ call ∈ c.ppuCalls, call.writable = true → call.buf = .vram ∨ (call.buf = .chr ∧ c.chrIsRam = true) := by
  intro call hc hw
  unfold Cart.ppuCalls at hc
  rw [List.mem_append] at hc
  obtain hc | hc := hc
  · obtain ⟨hb, he⟩ := c.chrCalls_writable call hc
    exact .inr ⟨hb, he ▸ hw⟩
  · simp only [Mirroring.calls, List.mem_cons, List.not_mem_nil, or_false] at hc
    rcases hc with rfl | rfl | rfl | rfl | rfl | rfl | rfl | rfl <;> exact .inl rfl

/-- A write to a space reaches a buffer that one of its writable calls names. -/
theorem Space.place_of_mapAll {c : Cart} {size n : Nat} {l : List MapCall} {sq : Space} (h : c.mapAll size l (Space.unmapped n) = some sq)
    {a : Nat} (ha : a / 1024 < n) {p : Place} (hp : sq.place a = some p) : ∃ call ∈ l, call.buf = p.1 ∧ call.writable = true := by
  unfold Space.place at hp
  split at hp
  · rename_i b hb
    split at hp
    · cases hp
      obtain ⟨call, hc, he, hw⟩ := Cart.bank_of_mapAll h ha hb
      exact ⟨call, hc, he.symm, hw ▸ ‹_›⟩
    · cases hp
  · cases hp

/-- On a mapped cartridge no write of the CPU reaches PRG, and none reaches CHR but where it is RAM (R63, R69). -/
theorem State.writePlace_rom {s : State} (h : s.cart.mapped) {a : Word} {p : Place} (hp : s.writePlace a = some p) :
    p.1 ≠ .prg ∧ (p.1 = .chr → s.cart.chrIsRam = true) := by
  obtain ⟨hcpu, hppu⟩ := Cart.mapped_spaces h
  unfold State.writePlace at hp
  split at hp
  · cases hp
    exact ⟨by simp, by simp⟩
  split at hp
  · split at hp
    · obtain ⟨call, hc, hb, hw⟩ := Space.place_of_mapAll hppu (by have := (vramAddr s.ppu.v).isLt; omega) hp
      rw [← hb]
      obtain e | ⟨e, hr⟩ := s.cart.ppuCalls_writable call hc hw
      · rw [e]
        exact ⟨by decide, fun e => by cases e⟩
      · rw [e]
        exact ⟨by decide, fun _ => hr⟩
    · cases hp
  split at hp
  · cases hp
  split at hp
  · obtain ⟨call, hc, hb, hw⟩ := Space.place_of_mapAll hcpu (by have := a.isLt; omega) hp
    rw [← hb]
    obtain e | e := s.cart.cpuCalls_writable call hc hw <;> rw [e] <;> exact ⟨by decide, fun e => by cases e⟩
  · cases hp

/-- A byte stored in another buffer leaves a buffer as it was. -/
theorem Buffers.get_storeAt_other {m : Buffers} {p : Option Place} {b : BufId} (h : ∀ q, p = some q → q.1 ≠ b) (v : Byte) :
    (m.storeAt p v).get b = m.get b := by
  cases p with
  | none => rfl
  | some q =>
    show (m.set q.1 _).get b = _
    rw [Buffers.get_set, if_neg (h q rfl).symm]

/-! ### The cartridge after a mapper write -/

/-- The sizes of the image are part of the banking. -/
theorem Cart.units_of_bankView {c d : Cart} (h : d.bankView = c.bankView) : d.prgUnits = c.prgUnits ∧ d.chrUnits = c.chrUnits :=
  ⟨show d.bankView.prgUnits = c.bankView.prgUnits by rw [h], show d.bankView.chrUnits = c.bankView.chrUnits by rw [h]⟩

/-- A remapping keeps the sizes of the image. -/
theorem Cart.remap_units {c d : Cart} (h : c.remap = some d) : d.prgUnits = c.prgUnits ∧ d.chrUnits = c.chrUnits := by
  unfold Cart.remap at h
  split at h
  · cases h; exact ⟨rfl, rfl⟩
  · cases h

theorem Cart.tryRemap_units (c : Cart) : (c.tryRemap).1.prgUnits = c.prgUnits ∧ (c.tryRemap).1.chrUnits = c.chrUnits := by
  unfold Cart.tryRemap
  split
  · exact Cart.remap_units ‹_›
  · exact ⟨rfl, rfl⟩

/-- A mapper register write keeps the sizes of the image (R523). -/
theorem Cart.romWrite_units (c : Cart) (cyc : Nat) (a : Word) (v : Byte) :
    (c.romWrite cyc a v).1.prgUnits = c.prgUnits ∧ (c.romWrite cyc a v).1.chrUnits = c.chrUnits := by
  unfold Cart.romWrite
  split
  · exact ⟨rfl, rfl⟩
  · split
    · exact ⟨rfl, rfl⟩
    · exact Cart.tryRemap_units _
  all_goals exact Cart.tryRemap_units _

theorem busWrite_mapper {a : Word} (h : 0x8000 ≤ a.toNat) (v : Byte) (s : State) : busWrite a v s = writeMapper a v { s with dbus := v } := by
  unfold busWrite busTarget
  rw [if_neg (by omega), if_neg (by omega), if_neg (by omega), if_neg (by omega), if_neg (by omega), if_neg (by omega), if_neg (by omega)]

theorem writeMapper_cart (a : Word) (v : Byte) (s : State) : (writeMapper a v s).cart = (s.cart.romWrite s.clk.cyc a v).1 := by
  unfold writeMapper
  split <;> rename_i e <;> rw [e]

theorem atWrite_banks (s : State) : s.atWrite.cart.bankView = s.cart.bankView := (atWrite_dotFrame s).banks

/-- A store from `$8000` on, as the cartridge sees it: dots before it, the register write of this cycle, and dots after it (R69, R85, R523). -/
theorem memWrite_mapper {a : Word} {s : State} (hs : s.fault = none) (hi : s.CartInv) (h : 0x8000 ≤ a.toNat) (v : Byte) :
    (memWrite a v s).cart.bankView = (s.atWrite.cart.romWrite (s.clk.cyc + 1) a v).1.bankView := by
  have hc : s.atWrite.CartInv := State.mapped_of_banks (atWrite_banks s) hi
  have hf : s.atWrite.fault = none := (readFrame_parts.startTick .write s).fault.trans hs
  have ht : (busWrite a v s.atWrite).fault = none := by
    rw [busWrite_mapper h]
    exact (writeMapper_ok (s := { s.atWrite with dbus := v }) hc a v).1.trans hf
  rw [memWrite_eq hs ht, (advance_dotFrame 5 _).banks, sampleLines_cart, busWrite_mapper h, writeMapper_cart]
  rfl

/-! ### No step changes ROM -/

/-- The ROM of `t` is that of `s`: PRG, CHR where it is ROM, and how much CHR there is. -/
structure SameRom (s t : State) : Prop where
  legal : t.CartInv
  prg : t.mem.prg = s.mem.prg
  chr : s.cart.chrIsRam = false → t.mem.chr = s.mem.chr
  chrUnits : t.cart.chrUnits = s.cart.chrUnits

theorem memWrite_chrUnits {s : State} (hi : s.CartInv) (a : Word) (v : Byte) : (memWrite a v s).cart.chrUnits = s.cart.chrUnits := by
  cases hf : s.fault with
  | some r => rw [memWrite_faulted (by rw [hf]; rfl)]
  | none =>
    by_cases h : a.toNat < 0x8000
    · exact (Cart.units_of_bankView ((memWrite_frame a v s).banks h)).2
    · calc (memWrite a v s).cart.chrUnits
          = (s.atWrite.cart.romWrite (s.clk.cyc + 1) a v).1.chrUnits := (Cart.units_of_bankView (memWrite_mapper hf hi (by omega) v)).2
        _ = s.atWrite.cart.chrUnits := (Cart.romWrite_units _ _ _ _).2
        _ = s.cart.chrUnits := (Cart.units_of_bankView (atWrite_banks s)).2

theorem SameRom.write {s t : State} (h : SameRom s t) (a : Word) (v : Byte) : SameRom s (memWrite a v t) := by
  cases hf : t.fault with
  | some r => rw [memWrite_faulted (by rw [hf]; rfl)]; exact h
  | none =>
    have hm : t.atWrite.cart.mapped := Cart.mapped_of_bankView (atWrite_banks t) h.legal.2
    have hu : t.atWrite.cart.chrUnits = s.cart.chrUnits := (Cart.units_of_bankView (atWrite_banks t)).2.trans h.chrUnits
    have hmem : (memWrite a v t).mem = t.mem.storeAt (t.atWrite.writePlace a) v := memWrite_mem hf a v
    refine ⟨(memWrite_ok h.legal a v).2, ?_, fun hr => ?_, (memWrite_chrUnits h.legal a v).trans h.chrUnits⟩
    · rw [hmem]
      exact (Buffers.get_storeAt_other (b := .prg) (fun q hq => (State.writePlace_rom hm hq).1) v).trans h.prg
    · rw [hmem]
      refine (Buffers.get_storeAt_other (b := .chr) (fun q hq e => ?_) v).trans (h.chr hr)
      have hram := (State.writePlace_rom hm hq).2 e
      unfold Cart.chrIsRam at hr hram
      rw [hu, hr] at hram
      cases hram

theorem sameRom_keeps (s : State) : Keeps (SameRom s) :=
  .mk' (fun {t} h a =>
      have f := memRead_frame a t
      ⟨State.mapped_of_banks f.banks h.legal, (congrArg Buffers.prg f.mem).trans h.prg,
       fun hr => (congrArg Buffers.chr f.mem).trans (h.chr hr), (Cart.units_of_bankView f.banks).2.trans h.chrUnits⟩)
    (fun h a v => h.write a v) (fun h _ _ _ => ⟨h.legal, h.prg, h.chr, h.chrUnits⟩)

/-- Settles O16: a write reaches a buffer through a writable bank, and no `map` call of a legal cartridge makes a bank of ROM writable. -/
theorem romNeverChanges : Obligations.RomNeverChanges := by
  intro s t hi e
  have h := (sameRom_keeps s).step ⟨hi, rfl, fun _ => rfl, rfl⟩ (fun _ _ hu => ⟨hu.legal, hu.prg, hu.chr, hu.chrUnits⟩) e
  exact ⟨h.prg, h.chr, h.chrUnits⟩

end Sys2Proof.Machine
end

section
/-! SUPPORT. What the banks of a mapped cartridge show, and the stores that select them (R77, R523, R527, R530 to R535). -/

namespace Sys2Proof.Machine

/-! ### What a list of `map` calls shows -/

/-- What a read of `a` finds after one more `map` call: the byte of the call's buffer inside its range, what was there before outside it (R61, R62). -/
def MapCall.shows (m : Buffers) (a : Nat) (old : Option Byte) (call : MapCall) : Option Byte :=
  if call.target ≤ a ∧ a < call.target + call.len then some ((m.get call.buf).read (call.start + (a - call.target))) else old

/-- A table mapped from nothing reads as its calls show. -/
theorem Cart.read_of_mapAll {c : Cart} {size n : Nat} {l : List MapCall} {sq : Space} (h : c.mapAll size l (Space.unmapped n) = some sq)
    (m : Buffers) {a : Nat} (ha : a / 1024 < n) : sq.read m a = l.foldl (MapCall.shows m a) none := by
  have h0 : (Space.unmapped n).read m a = none := by simp [Space.read, Space.bank, Space.unmapped, ha]
  rw [Cart.mapAll_read h m (by simpa [Space.unmapped] using ha), h0]
  rfl

variable {c : Cart} {m : Buffers} {a : Nat} {old : Option Byte}

theorem MapCall.shows_outside {call : MapCall} (h : ¬ (call.target ≤ a ∧ a < call.target + call.len)) : call.shows m a old = old := if_neg h

/-- The place of an address in an aligned window is its remainder. -/
theorem offset_in_window {unit target : Nat} (ht : target % unit = 0) (h : target ≤ a) (h' : a < target + unit) : a - target = a % unit := by
  obtain ⟨k, rfl⟩ := Nat.dvd_of_mod_eq_zero ht
  obtain ⟨r, rfl⟩ := Nat.exists_eq_add_of_le h
  rw [Nat.mul_add_mod, Nat.mod_eq_of_lt (by omega)]
  omega

theorem Cart.prgWindow_shows {unit target : Nat} (k : Nat) (ht : target % unit = 0) (h : target ≤ a) (h' : a < target + unit) :
    (c.prgWindow unit target k).shows m a old = some (m.prg.read (k % (c.prgLen / unit) * unit + a % unit)) := by
  rw [← offset_in_window ht h h']
  exact if_pos ⟨h, h'⟩

theorem Cart.chrWindow_shows {unit target : Nat} (k : Nat) (ht : target % unit = 0) (h : target ≤ a) (h' : a < target + unit) :
    (c.chrWindow unit target k).shows m a old = some (m.chr.read (k % (c.chrLen / unit) * unit + a % unit)) := by
  rw [← offset_in_window ht h h']
  exact if_pos ⟨h, h'⟩

theorem Cart.prgWindow_outside {unit target k : Nat} (h : a < target ∨ target + unit ≤ a) : (c.prgWindow unit target k).shows m a old = old :=
  MapCall.shows_outside (by show ¬ (target ≤ a ∧ a < target + unit); omega)

theorem Cart.chrWindow_outside {unit target k : Nat} (h : a < target ∨ target + unit ≤ a) : (c.chrWindow unit target k).shows m a old = old :=
  MapCall.shows_outside (by show ¬ (target ≤ a ∧ a < target + unit); omega)

/-! ### PRG (R530 to R535) -/

theorem Cart.prg16s (c : Cart) : c.prgLen / 16384 = c.prgUnits := by unfold Cart.prgLen; omega
theorem Cart.prg8s (c : Cart) : c.prgLen / 8192 = 2 * c.prgUnits := by unfold Cart.prgLen; omega
theorem Cart.prg32s (c : Cart) : c.prgLen / 32768 = c.prgUnits / 2 := by unfold Cart.prgLen; omega

/-- Two windows of 16 KiB. -/
theorem Cart.prg16_pair (k l : Nat) (ha : 0x8000 ≤ a) (ha' : a < 0x10000) :
    [c.prg16 0x8000 k, c.prg16 0xC000 l].foldl (MapCall.shows m a) none
      = some (m.prg.read (if a < 0xC000 then k % c.prgUnits * 16384 + a % 16384 else l % c.prgUnits * 16384 + a % 16384)) := by
  simp only [List.foldl_cons, List.foldl_nil, Cart.prg16]
  split
  · rw [Cart.prgWindow_outside (target := 0xC000) (by omega), Cart.prgWindow_shows k (by decide) ha (by omega), Cart.prg16s]
  · rw [Cart.prgWindow_shows l (by decide) (by omega) (by omega), Cart.prg16s]

/-- One window of 32 KiB, or one unit in both halves of it (log entry 6). -/
theorem Cart.prg32_shows (hs : c.sized = true) (k : Nat) (ha : 0x8000 ≤ a) (ha' : a < 0x10000) :
    (c.prg32 k).foldl (MapCall.shows m a) none
      = some (m.prg.read (if c.prgUnits = 1 then a % 16384 else k % (c.prgUnits / 2) * 32768 + a % 32768)) := by
  have h1 : 1 ≤ c.prgUnits := by simpa [Cart.sized] using hs
  unfold Cart.prg32
  by_cases h : c.prgUnits = 1
  · rw [if_pos (by unfold Cart.prgLen; omega), if_pos h, Cart.prg16_pair 0 0 ha ha']
    simp
  · rw [if_neg (by unfold Cart.prgLen; omega), if_neg h]
    simp only [List.foldl_cons, List.foldl_nil]
    rw [Cart.prgWindow_shows k (by decide) ha (by omega), Cart.prg32s]

/-- Four windows of 8 KiB. -/
theorem Cart.prg8_four (k0 k1 k2 k3 : Nat) (ha : 0x8000 ≤ a) (ha' : a < 0x10000) :
    [c.prg8 0x8000 k0, c.prg8 0xA000 k1, c.prg8 0xC000 k2, c.prg8 0xE000 k3].foldl (MapCall.shows m a) none
      = some (m.prg.read (if a < 0xA000 then k0 % (2 * c.prgUnits) * 8192 + a % 8192
          else if a < 0xC000 then k1 % (2 * c.prgUnits) * 8192 + a % 8192
          else if a < 0xE000 then k2 % (2 * c.prgUnits) * 8192 + a % 8192 else k3 % (2 * c.prgUnits) * 8192 + a % 8192)) := by
  simp only [List.foldl_cons, List.foldl_nil, Cart.prg8]
  split
  · rw [Cart.prgWindow_outside (target := 0xE000) (by omega), Cart.prgWindow_outside (target := 0xC000) (by omega),
      Cart.prgWindow_outside (target := 0xA000) (by omega), Cart.prgWindow_shows k0 (by decide) ha (by omega), Cart.prg8s]
  split
  · rw [Cart.prgWindow_outside (target := 0xE000) (by omega), Cart.prgWindow_outside (target := 0xC000) (by omega),
      Cart.prgWindow_shows k1 (by decide) (by omega) (by omega), Cart.prg8s]
  split
  · rw [Cart.prgWindow_outside (target := 0xE000) (by omega), Cart.prgWindow_shows k2 (by decide) (by omega) (by omega), Cart.prg8s]
  · rw [Cart.prgWindow_shows k3 (by decide) (by omega) (by omega), Cart.prg8s]

theorem Cart.lastPrg_16 (c : Cart) : c.lastPrg 16384 = c.prgUnits - 1 := congrArg (· - 1) c.prg16s
theorem Cart.lastPrg_8 (c : Cart) : c.lastPrg 8192 = 2 * c.prgUnits - 1 := congrArg (· - 1) c.prg8s

/-- A field of `n` bits from place `k` on of a register, as a number. -/
theorem toNat_field {w : Nat} (x : BitVec w) (k n : Nat) (h : n ≤ w) :
    (x >>> k &&& BitVec.ofNat w (2 ^ n - 1)).toNat = x.toNat / 2 ^ k % 2 ^ n := by
  have hp : 2 ^ n ≤ 2 ^ w := Nat.pow_le_pow_right (by decide) h
  have h1 := Nat.two_pow_pos n
  rw [BitVec.toNat_and, BitVec.toNat_ofNat, Nat.mod_eq_of_lt (by omega), Nat.and_two_pow_sub_one_eq_mod, BitVec.toNat_ushiftRight,
    Nat.shiftRight_eq_div_pow]

/-- The low `n` bits of a register as a number. -/
theorem toNat_lowField {w : Nat} (x : BitVec w) (n : Nat) (h : n ≤ w) : (x &&& BitVec.ofNat w (2 ^ n - 1)).toNat = x.toNat % 2 ^ n := by
  simpa using toNat_field x 0 n h

/-- Each mapper's PRG windows show what its rule says. -/
theorem Cart.prgCalls_shows (hs : c.sized = true) (ha : 0x8000 ≤ a) (ha' : a < 0x10000) :
    c.prgCalls.foldl (MapCall.shows m a) none = some (m.prg.read (c.prgShown a)) := by
  unfold Cart.prgCalls Cart.prgShown Cart.nromPrg
  rw [c.lastPrg_16, c.lastPrg_8]
  cases hm : c.mapper with
  | nrom => exact Cart.prg16_pair 0 _ ha ha'
  | uxrom bank => exact Cart.prg16_pair bank.toNat _ ha ha'
  | cnrom _ => exact Cart.prg16_pair 0 _ ha ha'
  | mmc3 r => exact Cart.prg8_four _ _ _ _ ha ha'
  | axrom reg =>
    have hreg : (reg &&& 7).toNat = reg.toNat % 8 := toNat_lowField reg 3 (by decide)
    dsimp only
    rw [hreg]
    exact Cart.prg32_shows hs _ ha ha'
  | mmc1 r =>
    have hmode : (r.control >>> 2 &&& 3).toNat = r.control.toNat / 4 % 4 := toNat_field r.control 2 2 (by decide)
    have hbank : (r.prg &&& 15).toNat = r.prg.toNat % 16 := toNat_lowField r.prg 4 (by decide)
    have hpair : (r.prg >>> 1 &&& 7).toNat = r.prg.toNat / 2 % 8 := toNat_field r.prg 1 3 (by decide)
    dsimp only
    rw [hmode, hbank, hpair]
    split
    · rename_i h; rw [if_pos h]; exact Cart.prg16_pair _ _ ha ha'
    · rename_i h; rw [if_neg (by omega), if_pos h]; exact Cart.prg16_pair _ _ ha ha'
    · rename_i h2 h3; rw [if_neg h2, if_neg h3]; exact Cart.prg32_shows hs _ ha ha'

/-! ### CHR (R530 to R535) -/

theorem Cart.chrLen_eq (c : Cart) : c.chrLen = 8192 * max 1 c.chrUnits := by
  unfold Cart.chrLen Cart.chrIsRam
  by_cases h : c.chrUnits = 0
  · simp [h]
  · simp only [h, decide_false, Bool.false_eq_true, if_false]
    omega

theorem Cart.chr8s (c : Cart) : c.chrLen / 8192 = max 1 c.chrUnits := by rw [c.chrLen_eq]; omega
theorem Cart.chr4s (c : Cart) : c.chrLen / 4096 = 2 * max 1 c.chrUnits := by rw [c.chrLen_eq]; omega
theorem Cart.chr1s (c : Cart) : c.chrLen / 1024 = 8 * max 1 c.chrUnits := by rw [c.chrLen_eq]; omega

/-- One window of 8 KiB. -/
theorem Cart.chr8_shows (k : Nat) (ha : a < 0x2000) :
    [c.chrWindow 8192 0 k].foldl (MapCall.shows m a) old = some (m.chr.read (k % max 1 c.chrUnits * 8192 + a)) := by
  simp only [List.foldl_cons, List.foldl_nil]
  rw [Cart.chrWindow_shows k (by decide) (by omega) (by omega), Cart.chr8s, Nat.mod_eq_of_lt ha]

/-- A window of 1 KiB shows in its own page. -/
theorem Cart.chr1_shows {target : Nat} (k : Nat) (ht : target % 1024 = 0) :
    (c.chrWindow 1024 target k).shows m a old
      = if a / 1024 = target / 1024 then some (m.chr.read (k % (8 * max 1 c.chrUnits) * 1024 + a % 1024)) else old := by
  split
  · rw [Cart.chrWindow_shows k ht (by omega) (by omega), Cart.chr1s]
  · exact Cart.chrWindow_outside (by omega)

/-- The two banks of a pair of 1 KiB, of which MMC3 holds one number (R535). -/
theorem toNat_pair (x : Byte) : (x &&& 0xFE).toNat = x.toNat / 2 * 2 ∧ (x ||| 1).toNat = x.toNat / 2 * 2 + 1 := by
  revert x
  decide

/-- Each mapper's CHR windows show what its rule says. -/
theorem Cart.chrCalls_shows (ha : a < 0x2000) : c.chrCalls.foldl (MapCall.shows m a) none = some (m.chr.read (c.chrShown a)) := by
  unfold Cart.chrCalls Cart.chrShown
  cases hm : c.mapper with
  | nrom => exact Cart.chr8_shows 0 ha
  | uxrom _ => exact Cart.chr8_shows 0 ha
  | cnrom bank => exact Cart.chr8_shows bank.toNat ha
  | axrom _ => exact Cart.chr8_shows 0 ha
  | mmc1 r =>
    dsimp only
    split
    · simp only [List.foldl_cons, List.foldl_nil]
      split
      · rw [Cart.chrWindow_outside (target := 0x1000) (by omega), Cart.chrWindow_shows _ (by decide) (by omega) (by omega), Cart.chr4s]
      · rw [Cart.chrWindow_shows _ (by decide) (by omega) (by omega), Cart.chr4s]
    · rw [show r.chr0.toNat / 2 = (r.chr0 >>> 1).toNat by rw [BitVec.toNat_ushiftRight]; rfl]
      exact Cart.chr8_shows _ ha
  | mmc3 r =>
    have hq : a / 1024 < 8 := by omega
    obtain ⟨h0, h1⟩ := toNat_pair (r.reg 0)
    obtain ⟨h2, h3⟩ := toNat_pair (r.reg 1)
    dsimp only
    cases r.bankSelect.getLsbD 7
    all_goals
      simp only [Bool.false_eq_true, if_true, if_false, List.foldl_cons, List.foldl_nil, h0, h1, h2, h3, Nat.zero_add, Nat.reduceAdd]
      simp (disch := decide) only [Cart.chr1_shows]
      generalize a / 1024 = q at hq ⊢
      interval_cases q <;> rfl

/-! ### The nametables (R77) -/

theorem Mirroring.ntCall_shows (mi : Mirroring) (bank : Nat) :
    (mi.ntCall bank).shows m a old
      = if a / 1024 = bank then some (m.vram.read (1024 * mi.page (bank % 4) + a % 1024)) else old := by
  split
  · have h : a - 1024 * bank = a % 1024 := offset_in_window (by omega) (by omega) (by omega)
    rw [← h]
    exact if_pos ⟨by show 1024 * bank ≤ a; omega, by show a < 1024 * bank + 1024; omega⟩
  · exact MapCall.shows_outside (by show ¬ (1024 * bank ≤ a ∧ a < 1024 * bank + 1024); omega)

/-- The eight nametable banks show the pages of the mirroring mode, and nothing below `$2000`. -/
theorem Mirroring.calls_shows (mi : Mirroring) (ha : a < 0x4000) :
    mi.calls.foldl (MapCall.shows m a) old
      = if a < 0x2000 then old else some (m.vram.read (mi.pages.getD (a / 1024 % 4) 0 * 1024 + a % 1024)) := by
  have hp : ∀ n, n < 4 → 1024 * mi.page n = mi.pages.getD n 0 * 1024 := by
    cases mi <;> decide
  simp only [Mirroring.calls, List.foldl_cons, List.foldl_nil, Mirroring.ntCall_shows, hp _ (Nat.mod_lt _ (by decide))]
  have h2 : a < 0x2000 ↔ a / 1024 < 8 := by omega
  have hq : a / 1024 < 16 := by omega
  simp only [h2]
  generalize a / 1024 = q at hq ⊢
  interval_cases q <;> rfl

theorem Cart.selectedMirroring_shown (c : Cart) : c.selectedMirroring = c.mirrorShown := by
  unfold Cart.selectedMirroring Cart.mirrorShown Cart.headerMirroring
  cases c.mapper with
  | mmc1 r =>
    have h : (r.control &&& 3).toNat = r.control.toNat % 4 := toNat_lowField r.control 2 (by decide)
    have hq : r.control.toNat % 4 < 4 := Nat.mod_lt _ (by decide)
    dsimp only
    rw [h]
    generalize r.control.toNat % 4 = q at hq ⊢
    interval_cases q <;> rfl
  | axrom reg =>
    show (if reg.getLsbD 4 = true then Mirroring.singleB else .singleA) = if reg.toNat / 16 % 2 = 0 then .singleA else .singleB
    revert reg
    decide
  | _ => rfl

/-! ### The two spaces of a mapped cartridge -/

/-- Calls that do not cover the address show nothing at it. -/
theorem foldl_shows_outside {l : List MapCall} (h : ∀ call ∈ l, ¬ (call.target ≤ a ∧ a < call.target + call.len)) :
    l.foldl (MapCall.shows m a) old = old := by
  induction l with
  | nil => rfl
  | cons call rest ih =>
    rw [List.foldl_cons, MapCall.shows_outside (h call (List.mem_cons_self ..))]
    exact ih fun x hx => h x (List.mem_cons_of_mem _ hx)

/-- Work RAM and PRG RAM lie below `$8000` (R66). -/
theorem Cart.cpuCalls_shows (ha : 0x8000 ≤ a) : c.cpuCalls.foldl (MapCall.shows m a) none = c.prgCalls.foldl (MapCall.shows m a) none := by
  unfold Cart.cpuCalls
  rw [List.foldl_append]
  congr 1
  refine foldl_shows_outside fun call hc => ?_
  simp only [List.mem_cons, List.not_mem_nil, or_false] at hc
  rcases hc with rfl | rfl | rfl | rfl | rfl <;> simp only [ramCall, prgRamBytes] <;> omega

/-- From `$8000` on the CPU reads PRG, where the mapper's rule says. -/
theorem State.plainByte_prg {s : State} (hi : s.CartInv) {a : Word} (h : 0x8000 ≤ a.toNat) :
    s.plainByte a = some (s.mem.prg.read (s.cart.prgShown a.toNat)) := by
  have ha := a.isLt
  unfold State.plainByte
  rw [if_neg (by omega), if_neg (by omega), Cart.read_of_mapAll (Cart.mapped_spaces hi.2).1 _ (by omega), Cart.cpuCalls_shows h,
    Cart.prgCalls_shows hi.1 h ha]

/-- Below `$2000` the PPU reads CHR, where the mapper's rule says. -/
theorem Cart.ppuSpace_chr (h : c.mapped) (m : Buffers) {a : Nat} (ha : a < 0x2000) : c.ppuSpace.read m a = some (m.chr.read (c.chrShown a)) := by
  rw [Cart.read_of_mapAll (Cart.mapped_spaces h).2 _ (by omega), Cart.ppuCalls, List.foldl_append, Mirroring.calls_shows _ (by omega), if_pos ha,
    Cart.chrCalls_shows ha]

/-- From `$2000` on the PPU reads the nametables, where the mirroring mode says. -/
theorem Cart.ppuSpace_nt (h : c.mapped) (m : Buffers) {a : Nat} (ha : 0x2000 ≤ a) (ha' : a < 0x4000) :
    c.ppuSpace.read m a = some (m.vram.read (c.ntShown a)) := by
  rw [Cart.read_of_mapAll (Cart.mapped_spaces h).2 _ (by omega), Cart.ppuCalls, List.foldl_append, Mirroring.calls_shows _ ha', if_neg (by omega),
    Cart.selectedMirroring_shown]
  rfl

/-! ### The mapper's registers after a store -/

/-- The mapper's registers after a register write in the cycle `cyc` (R530 to R535). -/
def Mapper.written (cyc : Nat) (a : Word) (v : Byte) : Mapper → Mapper
  | .nrom => .nrom
  | .mmc1 r => .mmc1 (if r.ignores cyc then { r with lastWriteCyc := cyc } else r.load cyc a v)
  | .uxrom _ => .uxrom v
  | .cnrom _ => .cnrom v
  | .mmc3 r => .mmc3 (r.load a v)
  | .axrom _ => .axrom v

theorem Cart.tryRemap_mapper (c : Cart) : (c.tryRemap).1.mapper = c.mapper := by
  unfold Cart.tryRemap
  split
  · exact (Cart.remap_same ‹_›).1
  · rfl

theorem Cart.romWrite_mapper (c : Cart) (cyc : Nat) (a : Word) (v : Byte) : (c.romWrite cyc a v).1.mapper = c.mapper.written cyc a v := by
  unfold Cart.romWrite
  split <;> rename_i hm <;> rw [hm]
  · rfl
  · unfold Mapper.written
    dsimp only
    split
    · rfl
    · exact Cart.tryRemap_mapper _
  all_goals exact Cart.tryRemap_mapper _

/-- Where there is no scanline counter, the registers are what the banking depends on. -/
theorem Mapper.eq_of_banks {m n : Mapper} (h : m.banks = n.banks) (hn : ∀ r, n ≠ .mmc3 r) : m = n := by
  have hb : n.banks = n := by
    cases n with
    | mmc3 r => exact absurd rfl (hn r)
    | _ => rfl
  rw [hb] at h
  cases m with
  | mmc3 r => exact absurd h.symm (hn _)
  | _ => exact h

theorem Cart.eq_of_bankView {c d : Cart} (h : d.bankView = c.bankView) (hc : ∀ r, c.mapper ≠ .mmc3 r) : d = c := by
  have hm : d.mapper = c.mapper := Mapper.eq_of_banks (congrArg Cart.mapper h :) hc
  calc d = d.bankView.withMapper d.mapper := rfl
    _ = c.bankView.withMapper c.mapper := by rw [h, hm]
    _ = c := rfl

/-- A store from `$8000` on writes the registers of a mapper without a scanline counter as `Mapper.written` says. -/
theorem memWrite_written {s : State} (hs : s.fault = none) (hi : s.CartInv) {a : Word} (h : 0x8000 ≤ a.toNat) (v : Byte)
    (hm : ∀ r, s.cart.mapper ≠ .mmc3 r) : (memWrite a v s).cart.mapper = s.cart.mapper.written (s.clk.cyc + 1) a v := by
  have hw : ∀ r, s.cart.mapper.written (s.clk.cyc + 1) a v ≠ .mmc3 r := by
    intro r e
    cases hc : s.cart.mapper with
    | mmc3 q => exact hm q hc
    | _ => rw [hc] at e; cases e
  refine Mapper.eq_of_banks ?_ hw
  have e := memWrite_mapper hs hi h v
  rw [Cart.eq_of_bankView (atWrite_banks s) hm] at e
  rw [← Cart.romWrite_mapper]
  exact (congrArg Cart.mapper e :)

/-- A store from `$8000` on changes no byte of memory (R69). -/
theorem memWrite_mem_high {s : State} (hs : s.fault = none) {a : Word} (h : 0x8000 ≤ a.toNat) (v : Byte) : (memWrite a v s).mem = s.mem := by
  rw [memWrite_mem hs]
  unfold State.memAfterWrite
  rw [State.writePlace_device _ (by omega) (.inr h)]
  rfl

theorem memWrite_prgUnits {s : State} (hs : s.fault = none) (hi : s.CartInv) {a : Word} (h : 0x8000 ≤ a.toNat) (v : Byte) :
    (memWrite a v s).cart.prgUnits = s.cart.prgUnits :=
  calc (memWrite a v s).cart.prgUnits
      = (s.atWrite.cart.romWrite (s.clk.cyc + 1) a v).1.prgUnits := (Cart.units_of_bankView (memWrite_mapper hs hi h v)).1
    _ = s.atWrite.cart.prgUnits := (Cart.romWrite_units _ _ _ _).1
    _ = s.cart.prgUnits := (Cart.units_of_bankView (atWrite_banks s)).1

/-- What UxROM shows: the selected bank at `$8000`, the last at `$C000` (R532). -/
theorem Cart.prgShown_uxrom {c : Cart} {bank : Byte} (hs : c.sized = true) (hm : c.mapper = .uxrom bank) {k : Nat} (hk : k < 0x4000) :
    c.prgShown (0x8000 + k) = bank.toNat % c.prgUnits * 16384 + k ∧ c.prgShown (0xC000 + k) = (c.prgUnits - 1) * 16384 + k := by
  have h1 : 1 ≤ c.prgUnits := by simpa [Cart.sized] using hs
  have hlast : (c.prgUnits - 1) % c.prgUnits = c.prgUnits - 1 := Nat.mod_eq_of_lt (by omega)
  unfold Cart.prgShown
  rw [hm]
  dsimp only
  rw [if_pos (by omega), if_neg (by omega), hlast]
  omega

/-- Settles O58: the banking of a mapped cartridge is read off its `map` calls, the last one that covers an address;
a store from `$8000` on leaves a mapped cartridge with the registers written. -/
theorem uxromSelectsBank : Obligations.UxromSelectsBank := by
  refine ⟨fun a s old hs hi hm h => ?_, fun s hi => ⟨fun a h => State.plainByte_prg hi h, fun a ha => Cart.ppuSpace_chr hi.2 _ ha,
    fun a ha ha' => Cart.ppuSpace_nt hi.2 _ ha ha'⟩, fun a s hs hi h => ?_⟩
  · obtain ⟨hf, hc⟩ := memWrite_ok hi a s.cpu.a
    have hmap : (memWrite a s.cpu.a s).cart.mapper = .uxrom s.cpu.a := by
      rw [memWrite_written hs hi h _ (by simp [hm]), hm]
      rfl
    have hmem := memWrite_mem_high hs h s.cpu.a
    refine ⟨memWrite a s.cpu.a s, rfl, hmap, hmem, hf.trans hs, memWrite_cpu _ _ _, fun k hk => ?_⟩
    obtain ⟨hlow, hhigh⟩ := Cart.prgShown_uxrom hc.1 hmap hk
    have h8 : (BitVec.ofNat 16 (0x8000 + k)).toNat = 0x8000 + k := Nat.mod_eq_of_lt (by omega)
    have hC : (BitVec.ofNat 16 (0xC000 + k)).toNat = 0xC000 + k := Nat.mod_eq_of_lt (by omega)
    rw [State.plainByte_prg hc (by omega), State.plainByte_prg hc (by omega), h8, hC, hlow, hhigh, hmem, memWrite_prgUnits hs hi h]
    exact ⟨rfl, rfl⟩
  · obtain ⟨hf, hc⟩ := memWrite_ok hi a s.cpu.a
    refine ⟨memWrite a s.cpu.a s, rfl, hc, hf.trans hs, memWrite_mem_high hs h _, memWrite_cpu _ _ _, fun hm => ?_, fun old hm => ?_,
      fun old hm => ?_⟩
    · have e := memWrite_mapper hs hi h s.cpu.a
      rw [Cart.eq_of_bankView (atWrite_banks s) (by simp [hm])] at e
      have hw : (s.cart.romWrite (s.clk.cyc + 1) a s.cpu.a).1 = s.cart := by unfold Cart.romWrite; rw [hm]
      rw [hw] at e
      exact Cart.eq_of_bankView e (by simp [hm])
    · rw [memWrite_written hs hi h _ (by simp [hm]), hm]
      rfl
    · rw [memWrite_written hs hi h _ (by simp [hm]), hm]
      rfl

end Sys2Proof.Machine
end

section
/-! SUPPORT. The bus cycle's time, and what its APU cycle clocks (R80 to R87, R451, R454, R459, R464 to R466). -/

namespace Sys2Proof.Machine

/-! ### The dots of a bus cycle -/

/-- The clocks after the first half-step of a bus cycle (R81, R82). -/
theorem startTick_clk (k : Access) (s : State) :
    (startTick k s).clk = { cyc := s.clk.cyc + 1, mclk := s.clk.mclk + k.before,
                            ppuClk := s.clk.ppuClk + 4 * dotsUntil (s.clk.mclk + k.before - s.cfg.ppuOffset.val) s.clk.ppuClk } := rfl

/-- Of the three dots of a bus cycle, those before the access (R87). -/
theorem State.ClockOk.dots_before {s : State} (h : s.ClockOk) (h1 : 1 ≤ s.clk.cyc) :
    dotsUntil (s.clk.mclk + 5 - s.cfg.ppuOffset.val) s.clk.ppuClk = (if s.cfg.ppuOffset.val = 1 then 2 else 1) ∧
    dotsUntil (s.clk.mclk + 7 - s.cfg.ppuOffset.val) s.clk.ppuClk = (if s.cfg.ppuOffset.val = 0 then 1 else 2) := by
  obtain ⟨hm, hp⟩ := h
  have hoff := s.cfg.ppuOffset.isLt
  generalize s.cfg.ppuOffset.val = off at *
  unfold dotsUntil
  constructor <;> split <;> omega

/-- The clocks after a whole bus cycle that has moved them in step (R80, R83). -/
theorem State.ClockOk.cycle_clk {s t : State} (h : s.ClockOk) (h1 : 1 ≤ s.clk.cyc) (hcfg : t.cfg = s.cfg)
    (ht : t.clk.cyc = s.clk.cyc + 1 ∧ t.clk.mclk = s.clk.mclk + 12 ∧ (s.clk.ppuClk = 4 * ((s.clk.mclk - s.cfg.ppuOffset.val) / 4) →
      t.clk.ppuClk = 4 * ((t.clk.mclk - t.cfg.ppuOffset.val) / 4))) :
    t.clk = { cyc := s.clk.cyc + 1, mclk := s.clk.mclk + 12, ppuClk := s.clk.ppuClk + 12 } := by
  obtain ⟨hm, hp⟩ := h
  obtain ⟨hc, hm', hp'⟩ := ht
  have hoff := s.cfg.ppuOffset.isLt
  have hp'' := hp' hp
  rw [hcfg, hm'] at hp''
  have hd : t.clk.ppuClk = s.clk.ppuClk + 12 := by omega
  rw [← hc, ← hm', ← hd]

/-! ### The frame sequencer (R464 to R466) -/

/-- A delayed mode write that does not end in this cycle counts down. -/
theorem Apu.pendingMode_waiting {a : Apu} (h : a.seq.pendingDelay ≠ 1) :
    a.pendingMode = { a with seq := { a.seq with pendingDelay := a.seq.pendingDelay - 1 } } := by
  unfold Apu.pendingMode
  by_cases h0 : a.seq.pendingDelay = 0
  · have hd : a.seq.pendingDelay - 1 = a.seq.pendingDelay := by omega
    rw [if_pos h0, hd]
  · rw [if_neg h0]
    exact if_neg (by dsimp only; omega)

/-- A delayed mode write that ends in this cycle applies its mode. -/
theorem Apu.pendingMode_ending {a : Apu} (h : a.seq.pendingDelay = 1) :
    a.pendingMode = Apu.applyFrameMode a.seq.pendingValue { a with seq := { a.seq with pendingDelay := 0 } } := by
  unfold Apu.pendingMode
  rw [if_neg (by omega)]
  simp [h]

/-- The last event of a mode's schedule. -/
def FrameSeq.lastEvent (mode : Bool) : Nat := if mode = true then 37281 else 29829

/-- The counters a schedule with last event `last` clocks at elapsed cycle `n`. -/
def Apu.clocked (last n : Nat) (a : Apu) : Apu :=
  let b := if n ∈ [7457, 14913, 22371, last] then a.quarter else a
  if n ∈ [14913, last] then b.half else b

/-- The counters clocked do not depend on the sequencer's own state. -/
theorem Apu.clocked_seq (last n : Nat) (a : Apu) (q r : FrameSeq) :
    { ({ a with seq := q } : Apu).clocked last n with seq := r } = { a.clocked last n with seq := r } := by
  unfold Apu.clocked
  dsimp only
  split <;> split <;> rfl

/-- The 4-step schedule (R465, R466). -/
theorem Apu.fourStep_eq (n : Nat) (a : Apu) (h : a.seq.cycle = n) :
    a.fourStep n = { a.clocked 29829 n with seq := { a.seq with
      cycle := if n = 29829 + 1 then 0 else n
      irqFlag := a.seq.irqFlag || (decide (29828 ≤ n ∧ n ≤ 29830) && !a.seq.irqInhibit)
      step := if n = 7457 then 1 else if n = 14913 then 2 else if n = 22371 then 3 else if n = 29829 then 0
              else a.seq.step } } := by
  subst h
  unfold Apu.fourStep Apu.clocked FrameSeq.frameIrq
  split
  · simp_all
  split
  · simp_all
  split
  · simp_all
  split
  · simp_all
  split
  · simp_all
  split
  · simp_all
  · have hd : ¬ (29828 ≤ a.seq.cycle ∧ a.seq.cycle ≤ 29830) := by omega
    rw [decide_eq_false hd]
    simp_all

/-- The 5-step schedule, which has no interrupt (R465, R466). -/
theorem Apu.fiveStep_eq (n : Nat) (a : Apu) (h : a.seq.cycle = n) :
    a.fiveStep n = { a.clocked 37281 n with seq := { a.seq with
      cycle := if n = 37281 + 1 then 0 else n
      step := if n = 7457 then 1 else if n = 14913 then 2 else if n = 22371 then 3 else if n = 37281 then 0
              else if n = 29829 then 4 else a.seq.step } } := by
  subst h
  unfold Apu.fiveStep Apu.clocked
  split
  · simp_all
  split
  · simp_all
  split
  · simp_all
  split
  · simp_all
  split
  · simp_all
  split
  · simp_all
  · simp_all

/-- The sequencer's step on a cycle that ends no delayed mode write (R465, R466). -/
theorem Apu.sequencerStep_waiting {a : Apu} (h : a.seq.pendingDelay ≠ 1) :
    let n := a.seq.cycle + 1
    let last := if a.seq.mode = true then 37281 else 29829
    a.sequencerStep = { a.clocked last n with seq := { a.seq with
      pendingDelay := a.seq.pendingDelay - 1
      cycle := if n = last + 1 then 0 else n
      irqFlag := a.seq.irqFlag || (!a.seq.mode && decide (29828 ≤ n ∧ n ≤ 29830) && !a.seq.irqInhibit)
      step := if n = 7457 then 1 else if n = 14913 then 2 else if n = 22371 then 3 else if n = last then 0
              else if n = 29829 then 4 else a.seq.step } } := by
  intro n last
  unfold Apu.sequencerStep
  rw [Apu.pendingMode_waiting h]
  cases hm : a.seq.mode with
  | true =>
    have hl : last = 37281 := by simp [last, hm]
    refine (if_pos hm).trans ((Apu.fiveStep_eq n _ rfl).trans ?_)
    rw [hl]
    refine (Apu.clocked_seq _ n a _ _).trans ?_
    simp [hm]
  | false =>
    have hl : last = 29829 := by simp [last, hm]
    refine (if_neg (ne_true_of_eq_false hm)).trans ((Apu.fourStep_eq n _ rfl).trans ?_)
    rw [hl]
    refine (Apu.clocked_seq _ n a _ _).trans ?_
    simp only [hm, Bool.not_false, Bool.true_and]
    split_ifs <;> rfl

/-- The sequencer's step on the cycle that ends a delayed mode write (R464, R465). -/
theorem Apu.sequencerStep_ending {a : Apu} (h : a.seq.pendingDelay = 1) :
    a.sequencerStep = { (if a.seq.pendingValue.getLsbD 7 = true then a.quarter.half else a) with seq := { a.seq with
      pendingDelay := 0, mode := a.seq.pendingValue.getLsbD 7, cycle := 1, step := 0 } } := by
  have hs := Apu.applyFrameMode_seq a.seq.pendingValue { a with seq := { a.seq with pendingDelay := 0 } }
  rw [Apu.sequencerStep_early (by rw [Apu.pendingMode_ending h, hs]; exact (by decide : 0 + 1 < 7457)), Apu.pendingMode_ending h, hs]
  unfold Apu.applyFrameMode
  dsimp only
  split <;> rfl

/-! ### What the half and quarter frames clock (R454, R459) -/

theorem LengthCounter.clock_eq (l : LengthCounter) :
    l.clock = { l with value := l.clock.value } ∧
    l.clock.value.toNat = (if l.halt = true then l.value.toNat else l.value.toNat - 1) := by
  unfold LengthCounter.clock
  split
  next h =>
    obtain ⟨hh, hv⟩ : l.halt = false ∧ 0 < l.value.toNat := by simpa using h
    refine ⟨rfl, ?_⟩
    rw [if_neg (ne_true_of_eq_false hh)]
    bv_omega
  next h =>
    refine ⟨rfl, ?_⟩
    split
    · rfl
    next hh =>
      have hv : ¬ 0 < l.value.toNat := fun hv => h (by simp [hh, hv])
      omega

theorem Envelope.clock_eq (loop : Bool) (e : Envelope) :
    (e.clock loop).start = false ∧ (e.clock loop).constant = e.constant ∧ (e.clock loop).period = e.period ∧
    (e.clock loop).divider.toNat = (if e.start = true ∨ e.divider = 0 then e.period.toNat else e.divider.toNat - 1) ∧
    (e.clock loop).decay.toNat = (if e.start = true then 15 else if e.divider ≠ 0 then e.decay.toNat
      else if e.decay = 0 ∧ loop = true then 15 else e.decay.toNat - 1) := by
  unfold Envelope.clock
  by_cases hs : e.start = true
  · simp [hs]
  by_cases hd : e.divider = 0#4
  · by_cases hy : e.decay = 0#4
    · cases loop <;> simp [hs, hd, hy]
    · have : (e.decay - 1#4).toNat = e.decay.toNat - 1 := by bv_omega
      simp [hs, hd, hy, this]
  · have : (e.divider - 1#4).toNat = e.divider.toNat - 1 := by bv_omega
    simp [hs, hd, this]

theorem Triangle.linearClock_counter (t : Triangle) :
    t.linearClock.linearCounter.toNat =
      (if t.linearReload = true then t.linearReloadValue.toNat else t.linearCounter.toNat - 1) := by
  unfold Triangle.linearClock
  by_cases hr : t.linearReload = true
  · simp [hr]
  by_cases hc : t.linearCounter = 0#7
  · simp [hr, hc]
  · have : (t.linearCounter - 1#7).toNat = t.linearCounter.toNat - 1 := by bv_omega
    simp [hr, hc, this]

theorem startTick_apu (k : Access) (s : State) : (startTick k s).apu = (s.apu.apuStep s.cfg (s.clk.cyc + 1)).1 := rfl

/-- Settles O50: the clocks from `readCycle_clk` and `writeCycle_clk`, the sequencer by its two kinds of cycle. -/
theorem busCycleTiming : Obligations.BusCycleTiming := by
  unfold Obligations.BusCycleTiming
  refine ⟨fun s hm hp h1 => ?_, fun k s => ⟨startTick_apu k s, ?_, ?_⟩, fun a h => Apu.sequencerStep_waiting h,
    fun a h => Apu.sequencerStep_ending h, fun a => ⟨?_, ?_, Triangle.linearClock_counter _, rfl⟩⟩
  · have ok : s.ClockOk := ⟨hm, hp⟩
    obtain ⟨hr, hw⟩ := ok.dots_before h1
    refine ⟨fun a => ok.cycle_clk h1 ?_ (readCycle_clk a s), fun a v hf => ok.cycle_clk h1 (writeCycle_cpu a v s).2 (writeCycle_clk a v s hf),
      ?_, ?_⟩
    · exact (readFrame_parts.readCycle a s).cfg
    · rw [startTick_clk]
      exact congrArg (s.clk.ppuClk + 4 * ·) hr
    · rw [startTick_clk]
      exact congrArg (s.clk.ppuClk + 4 * ·) hw
  · rw [startTick_apu]; rfl
  · rfl
  · simp only [List.forall_mem_cons, List.not_mem_nil, false_implies, implies_true, and_true]
    exact ⟨a.sq1.len.clock_eq, a.sq2.len.clock_eq, a.tri.len.clock_eq, a.noise.len.clock_eq⟩
  · simp only [List.forall_mem_cons, List.not_mem_nil, false_implies, implies_true, and_true]
    exact ⟨a.sq1.env.clock_eq _, a.sq2.env.clock_eq _, a.noise.env.clock_eq _⟩

end Sys2Proof.Machine
end

section
/-! SUPPORT. The sample channel's timer and its transfers, and what the DMA engine's cycles cost (R100 to R103, R467 to R469). -/

namespace Sys2Proof.Machine

/-! ### The sample channel's timer (R467) -/

theorem Dmc.timerStep_counting {d : Dmc} (h : d.timer ≠ 0) : d.timerStep = ({ d with timer := d.timer - 1 }, false) := if_neg h

/-- The channel when its timer has run out and the shift register holds more bits. -/
theorem Dmc.timerStep_shift {d : Dmc} (h : d.timer = 0) (hb : d.bitsRemaining ≠ 1) :
    d.timerStep = ({ d with timer := BitVec.ofNat 9 (dmcRate.getD d.rateIndex.toNat 428 - 1), outputLevel := d.nextLevel,
                            shiftReg := d.shiftReg >>> 1, bitsRemaining := d.bitsRemaining - 1 }, false) := by
  have hs : d.bitsRemaining - 1 ≠ 0 := fun e => hb (by bv_omega)
  exact (if_pos h).trans (if_neg hs)

/-- The channel when its timer has run out with the last bit and the buffer holds a byte. -/
theorem Dmc.timerStep_take {d : Dmc} (h : d.timer = 0) (hb : d.bitsRemaining = 1) (hf : d.bufferFull = true) :
    d.timerStep = ({ d with timer := BitVec.ofNat 9 (dmcRate.getD d.rateIndex.toNat 428 - 1), outputLevel := d.nextLevel,
                            shiftReg := d.sampleBuffer, bitsRemaining := 8, silence := false, bufferFull := false },
                   decide (0 < d.bytesRemaining.toNat)) := by
  have hs : d.bitsRemaining - 1 = 0 := by rw [hb]; rfl
  exact (if_pos h).trans ((if_pos hs).trans (if_pos hf))

/-- The channel when its timer has run out with the last bit and the buffer is empty: it falls silent. -/
theorem Dmc.timerStep_silent {d : Dmc} (h : d.timer = 0) (hb : d.bitsRemaining = 1) (hf : d.bufferFull = false) :
    d.timerStep = ({ d with timer := BitVec.ofNat 9 (dmcRate.getD d.rateIndex.toNat 428 - 1), outputLevel := d.nextLevel,
                            shiftReg := d.shiftReg >>> 1, bitsRemaining := 8, silence := true }, false) := by
  have hs : d.bitsRemaining - 1 = 0 := by rw [hb]; rfl
  exact (if_pos h).trans ((if_pos hs).trans (if_neg (ne_true_of_eq_false hf)))

/-- When the timer asks for a byte (R103, R467). -/
theorem Dmc.timerStep_request (d : Dmc) :
    d.timerStep.2 = true ↔ d.timer = 0 ∧ d.bitsRemaining = 1 ∧ d.bufferFull = true ∧ d.bytesRemaining ≠ 0 := by
  by_cases h : d.timer = 0
  swap
  · rw [Dmc.timerStep_counting h]
    exact ⟨fun e => (nomatch e), fun e => absurd e.1 h⟩
  by_cases hb : d.bitsRemaining = 1
  swap
  · rw [Dmc.timerStep_shift h hb]
    exact ⟨fun e => (nomatch e), fun e => absurd e.2.1 hb⟩
  cases hf : d.bufferFull with
  | false => simp [Dmc.timerStep_silent h hb hf]
  | true =>
    have hr : 0 < d.bytesRemaining.toNat ↔ d.bytesRemaining ≠ 0 := by
      constructor <;> intro h <;> bv_omega
    simp only [Dmc.timerStep_take h hb hf, decide_eq_true_eq, hr]
    simp [h, hb]

/-- The periods of the rate table fit the nine bits of the timer. -/
theorem dmcRate_timer (k : BitVec 4) : (BitVec.ofNat 9 (dmcRate.getD k.toNat 428 - 1)).toNat = dmcRate.getD k.toNat 0 - 1 := by
  have h : ∀ n < 16, (BitVec.ofNat 9 (dmcRate.getD n 428 - 1)).toNat = dmcRate.getD n 0 - 1 := by decide
  exact h _ k.isLt

/-- The output level moves by 2 within its seven bits. -/
theorem Dmc.nextLevel_toNat (d : Dmc) : d.nextLevel.toNat =
    (if d.silence = true then d.outputLevel.toNat
     else if d.shiftReg.getLsbD 0 = true then (if d.outputLevel.toNat ≤ 125 then d.outputLevel.toNat + 2 else d.outputLevel.toNat)
     else (if 2 ≤ d.outputLevel.toNat then d.outputLevel.toNat - 2 else d.outputLevel.toNat)) := by
  unfold Dmc.nextLevel
  split
  · rfl
  split
  · split
    · bv_omega
    · rfl
  · split
    · bv_omega
    · rfl

/-! ### The delivery of a byte (R468, R469) -/

theorem Dmc.deliver_none {d : Dmc} (h : d.bytesRemaining = 0) (v : Byte) : d.deliver v = d := if_pos h

/-- The delivery of a byte that is not the last. -/
theorem Dmc.deliver_more {d : Dmc} (h : 1 < d.bytesRemaining.toNat) (v : Byte) :
    d.deliver v = { d with sampleBuffer := v, bufferFull := true, curAddr := if d.curAddr = 0xFFFF then 0x8000 else d.curAddr + 1,
                           bytesRemaining := d.bytesRemaining - 1 } := by
  have h0 : d.bytesRemaining ≠ 0 := by bv_omega
  have h1 : d.bytesRemaining - 1 ≠ 0 := by bv_omega
  exact (if_neg h0).trans (if_neg h1)

/-- The delivery of the last byte of a looping sample. -/
theorem Dmc.deliver_loop {d : Dmc} (h : d.bytesRemaining = 1) (hl : d.loop = true) (v : Byte) :
    d.deliver v = Dmc.restart { d with sampleBuffer := v, bufferFull := true } := by
  have h0 : d.bytesRemaining ≠ 0 := by rw [h]; decide
  have h1 : d.bytesRemaining - 1 = 0 := by rw [h]; rfl
  exact (if_neg h0).trans ((if_pos h1).trans (if_pos hl))

/-- The delivery of the last byte of a sample that does not loop. -/
theorem Dmc.deliver_end {d : Dmc} (h : d.bytesRemaining = 1) (hl : d.loop = false) (v : Byte) :
    d.deliver v = { d with sampleBuffer := v, bufferFull := true, curAddr := if d.curAddr = 0xFFFF then 0x8000 else d.curAddr + 1,
                           bytesRemaining := 0, irqFlag := d.irqFlag || d.irqEnabled } := by
  have h0 : d.bytesRemaining ≠ 0 := by rw [h]; decide
  have h1 : d.bytesRemaining - 1 = 0 := by rw [h]; rfl
  refine (if_neg h0).trans ((if_pos h1).trans ((if_neg (ne_true_of_eq_false hl)).trans ?_))
  dsimp only
  rw [h1]

/-- The registers' address and length (R468). -/
theorem Dmc.restart_restarted (d : Dmc) : d.Restarted d.restart := by
  have ha := d.sampleAddrReg.isLt
  have hl := d.sampleLenReg.isLt
  constructor
  · show (0xC000#16 + (d.sampleAddrReg.setWidth 16 <<< 6)).toNat = _
    simp only [BitVec.toNat_add, BitVec.toNat_shiftLeft, BitVec.toNat_setWidth, Nat.shiftLeft_eq, BitVec.toNat_ofNat]
    omega
  · show ((d.sampleLenReg.setWidth 12 <<< 4) + 1#12).toNat = _
    simp only [BitVec.toNat_add, BitVec.toNat_shiftLeft, BitVec.toNat_setWidth, Nat.shiftLeft_eq, BitVec.toNat_ofNat]
    omega

/-! ### What a bus cycle does to the channel and to the DMA engine -/

theorem busAnswer_dmc (a : Word) (s : State) : (busAnswer a s).2.apu.dmc = s.apu.dmc :=
  busAnswer_cases (M := fun t => t.apu.dmc = s.apu.dmc) a s (fun _ => rfl) (fun _ _ => rfl) (fun _ => rfl) (fun _ _ => rfl)

/-- A read cycle takes the channel through its timer. -/
theorem readCycle_dmc (a : Word) (s : State) : (readCycle a s).2.apu.dmc = s.apu.dmc.timerStep.1 :=
  (busAnswer_dmc a (startTick .read s)).trans (Apu.apuStep_dmc _ _ _).1

theorem startTick_dma (k : Access) (s : State) : (startTick k s).dma = s.dma.request s.apu.dmc.timerStep.2 :=
  congrArg s.dma.request (Apu.apuStep_dmc s.cfg (s.clk.cyc + 1) s.apu).2

/-- A read cycle changes of the DMA engine what the channel's timer asks for. -/
theorem readCycle_dma (a : Word) (s : State) : (readCycle a s).2.dma = s.dma.request s.apu.dmc.timerStep.2 :=
  (busAnswer_counters a (startTick .read s)).1.trans (startTick_dma .read s)

/-- The same of the write to OAM, whether or not the machine has faulted. -/
theorem writeCycle_oam (v : Byte) (s : State) :
    (writeCycle 0x2004 v s).apu.dmc = s.apu.dmc.timerStep.1 ∧ (writeCycle 0x2004 v s).dma = s.dma.request s.apu.dmc.timerStep.2 ∧
    (writeCycle 0x2004 v s).clk.cyc = s.clk.cyc + 1 := by
  have hd : (startTick .write s).apu.dmc = s.apu.dmc.timerStep.1 := (Apu.apuStep_dmc _ _ _).1
  unfold writeCycle
  dsimp only
  split
  · exact ⟨hd, startTick_dma .write s, rfl⟩
  · exact ⟨hd, startTick_dma .write s, rfl⟩

theorem Dma.request_active {d : Dma} (h : d.dmcActive = true) (req : Bool) : d.request req = d := by
  unfold Dma.request
  rw [if_neg (by simp [h])]

theorem Dma.request_eq (req : Bool) (d : Dma) :
    d.request req = if req = true ∧ d.dmcActive = false then { d with dmcActive := true, dmcWait := 2, haltReq := true } else d := by
  unfold Dma.request
  simp only [Bool.and_eq_true, Bool.not_eq_true']

/-! ### The loop of the DMA engine (R100) -/

/-- With nothing to transfer the loop ends. -/
theorem dmaLoop_idle (a : Word) (fuel n : Nat) (v : Byte) {s : State} (hd : s.dma.dmcActive = false) (hs : s.dma.spriteActive = false) :
    dmaLoop a fuel n v s = s := by
  cases fuel with
  | zero => rfl
  | succ fuel => exact if_pos (by rw [hd, hs]; rfl)

/-- A cycle of the loop that only waits for a sample fetch. -/
theorem dmaLoop_wait (a : Word) (fuel n : Nat) (v : Byte) {s : State} (hd : s.dma.dmcActive = true) (hs : s.dma.spriteActive = false)
    (hw : s.clk.cyc % 2 = 1 ∨ s.dma.dmcWait ≠ 0) : dmaLoop a (fuel + 1) n v s = dmaLoop a fuel n v (dmaCycleRead a s).2 := by
  rw [dmaLoop, if_neg (by simp [hd])]
  split
  · rw [if_neg (by simp; omega), if_neg (by simp [hs])]
  · rw [if_neg (by simp [hs])]

/-- The cycle of the loop that fetches the sample byte. -/
theorem dmaLoop_fetch (a : Word) (fuel n : Nat) (v : Byte) {s : State} (hd : s.dma.dmcActive = true)
    (he : s.clk.cyc % 2 = 0) (hw : s.dma.dmcWait = 0) :
    dmaLoop a (fuel + 1) n v s =
      dmaLoop a fuel n v (dmcDone (dmaCycleRead s.apu.dmc.curAddr s).1 (dmaCycleRead s.apu.dmc.curAddr s).2) := by
  rw [dmaLoop, if_neg (by simp [hd]), if_pos he, if_pos (by simp [hd, hw])]

/-- A cycle of the loop that reads a byte of the sprite page. -/
theorem dmaLoop_spriteRead (a : Word) (fuel n : Nat) (v : Byte) {s : State} (hd : s.dma.dmcActive = false) (hs : s.dma.spriteActive = true)
    (he : s.clk.cyc % 2 = 0) :
    dmaLoop a (fuel + 1) n v s = dmaLoop a fuel (n + 1) (dmaCycleRead (word s.dma.spritePage (BitVec.ofNat 8 (n / 2))) s).1
      (dmaCycleRead (word s.dma.spritePage (BitVec.ofNat 8 (n / 2))) s).2 := by
  rw [dmaLoop, if_neg (by simp [hs]), if_pos he, if_neg (by simp [hd]), if_pos hs]

/-- A cycle of the loop that writes the byte read to OAM. -/
theorem dmaLoop_spriteWrite (a : Word) (fuel n : Nat) (v : Byte) {s : State} (hs : s.dma.spriteActive = true)
    (ho : s.clk.cyc % 2 = 1) (hn : n % 2 = 1) :
    dmaLoop a (fuel + 1) n v s = dmaLoop a fuel (n + 1) v (spriteDone (n + 1) (dmaCycleWrite 0x2004 v s)) := by
  rw [dmaLoop, if_neg (by simp [hs]), if_neg (by omega), if_pos (by simp [hs, hn])]

/-- A cycle of the loop in which a sprite transfer waits for an even cycle. -/
theorem dmaLoop_spriteAlign (a : Word) (fuel n : Nat) (v : Byte) {s : State} (hs : s.dma.spriteActive = true)
    (ho : s.clk.cyc % 2 = 1) (hn : n % 2 = 0) : dmaLoop a (fuel + 1) n v s = dmaLoop a fuel n v (dmaCycleRead a s).2 := by
  rw [dmaLoop, if_neg (by simp [hs]), if_neg (by omega), if_neg (by simp [hn])]

/-! ### A sprite transfer alone -/

/-- The engine serves at most a sprite transfer, requested if `b`, and the sample channel has no bytes to ask for. -/
structure State.SpriteOnly (b : Bool) (s : State) : Prop where
  sprite : s.dma.spriteActive = b
  dmc : s.dma.dmcActive = false
  remaining : s.apu.dmc.bytesRemaining = 0

/-- A channel without bytes left asks for none. -/
theorem Dmc.timerStep_quiet {d : Dmc} (h : d.bytesRemaining = 0) : d.timerStep.2 = false ∧ d.timerStep.1.bytesRemaining = 0 := by
  obtain ⟨-, -, -, -, -, hr, hq⟩ := d.timerStep_fields
  exact ⟨hq h, hr.trans h⟩

/-- A read of the engine takes one cycle of a sprite transfer. -/
theorem State.SpriteOnly.read {b : Bool} {s : State} (h : s.SpriteOnly b) (a : Word) :
    (dmaCycleRead a s).2.SpriteOnly b ∧ (dmaCycleRead a s).2.clk.cyc = s.clk.cyc + 1 ∧ (dmaCycleRead a s).2.dma.haltReq = false := by
  obtain ⟨hq, hr⟩ := Dmc.timerStep_quiet h.remaining
  have hd : (dmaCycleRead a s).2.dma = (dmaPrologue s).dma := by
    refine (readCycle_dma a (dmaPrologue s)).trans ?_
    rw [dmaPrologue_apu, hq]
    rfl
  refine ⟨⟨?_, ?_, ?_⟩, (readCycle_clk a (dmaPrologue s)).1, ?_⟩
  · rw [hd]; exact h.sprite
  · rw [hd]; exact h.dmc
  · exact (congrArg Dmc.bytesRemaining (readCycle_dmc a (dmaPrologue s))).trans hr
  · rw [hd]; rfl

/-- A write of the engine takes one cycle, and the last ends the transfer. -/
theorem State.SpriteOnly.write {s : State} (h : s.SpriteOnly true) (n : Nat) (v : Byte) :
    (spriteDone n (dmaCycleWrite 0x2004 v s)).SpriteOnly (decide (n ≠ 512)) ∧
    (spriteDone n (dmaCycleWrite 0x2004 v s)).clk.cyc = s.clk.cyc + 1 ∧
    (spriteDone n (dmaCycleWrite 0x2004 v s)).dma.haltReq = false := by
  obtain ⟨hq, hr⟩ := Dmc.timerStep_quiet h.remaining
  obtain ⟨hc, hdma, hcyc⟩ := writeCycle_oam v (dmaPrologue s)
  have hd : (dmaCycleWrite 0x2004 v s).dma = (dmaPrologue s).dma := by
    refine hdma.trans ?_
    rw [dmaPrologue_apu, hq]
    rfl
  have hb : (dmaCycleWrite 0x2004 v s).apu.dmc.bytesRemaining = 0 := (congrArg Dmc.bytesRemaining hc).trans hr
  unfold spriteDone
  by_cases hn : n = 512
  · rw [if_pos hn]
    refine ⟨⟨by simp [hn], ?_, hb⟩, hcyc, ?_⟩
    · dsimp only; rw [hd]; exact h.dmc
    · dsimp only; rw [hd]; rfl
  · rw [if_neg hn]
    refine ⟨⟨?_, ?_, hb⟩, hcyc, ?_⟩
    · rw [hd]; simpa [hn] using h.sprite
    · rw [hd]; exact h.dmc
    · rw [hd]; rfl

/-- The aligned loop takes one cycle for each of the `k` accesses left. -/
theorem dmaLoop_sprite (a : Word) : ∀ (k n fuel : Nat) (v : Byte) (s : State), n + k = 512 → k ≤ fuel → s.SpriteOnly (decide (k ≠ 0)) →
    s.clk.cyc % 2 = n % 2 → s.dma.haltReq = false →
    (dmaLoop a fuel n v s).clk.cyc = s.clk.cyc + k ∧ (dmaLoop a fuel n v s).dma.spriteActive = false ∧
    (dmaLoop a fuel n v s).dma.haltReq = false := by
  intro k
  induction k with
  | zero =>
    intro n fuel v s _ _ h _ hh
    rw [dmaLoop_idle a fuel n v h.dmc h.sprite]
    exact ⟨rfl, h.sprite, hh⟩
  | succ k ih =>
    intro n fuel v s hn hf h hc hh
    obtain ⟨fuel, rfl⟩ : ∃ f, fuel = f + 1 := ⟨fuel - 1, by omega⟩
    have h1 : s.SpriteOnly true := by simpa using h
    rcases Nat.mod_two_eq_zero_or_one n with he | ho
    · have hk : decide (k ≠ 0) = true := decide_eq_true (by omega)
      rw [dmaLoop_spriteRead a fuel n v h1.dmc h1.sprite (hc.trans he)]
      obtain ⟨h', hc', hh'⟩ := h1.read (word s.dma.spritePage (BitVec.ofNat 8 (n / 2)))
      obtain ⟨r1, r2, r3⟩ := ih (n + 1) fuel (dmaCycleRead _ s).1 _ (by omega) (by omega) (hk ▸ h') (by omega) hh'
      exact ⟨r1.trans (by omega), r2, r3⟩
    · have hk : decide (n + 1 ≠ 512) = decide (k ≠ 0) := decide_eq_decide.mpr (by omega)
      rw [dmaLoop_spriteWrite a fuel n v h1.sprite (hc.trans ho) ho]
      obtain ⟨h', hc', hh'⟩ := h1.write (n + 1) v
      obtain ⟨r1, r2, r3⟩ := ih (n + 1) fuel v _ (by omega) (by omega) (hk ▸ h') (by omega) hh'
      exact ⟨r1.trans (by omega), r2, r3⟩

/-- The cost of a sprite transfer alone (R100 to R102). -/
theorem runDma_sprite (a : Word) {s : State} (h : s.SpriteOnly true) :
    (runDma a s).clk.cyc = s.clk.cyc + (if s.clk.cyc % 2 = 1 then 513 else 514) ∧
    (runDma a s).dma.spriteActive = false ∧ (runDma a s).dma.haltReq = false := by
  obtain ⟨h1, hc1, hh1⟩ := h.read a
  show (dmaLoop a (1024 + s.dma.dmcWait) 0 0 (dmaCycleRead a s).2).clk.cyc = _ ∧ _
  by_cases ho : s.clk.cyc % 2 = 1
  · rw [if_pos ho]
    obtain ⟨r1, r2, r3⟩ := dmaLoop_sprite a 512 0 (1024 + s.dma.dmcWait) 0 _ rfl (by omega) h1 (by omega) hh1
    exact ⟨r1.trans (by omega), r2, r3⟩
  · rw [if_neg ho]
    obtain ⟨h2, hc2, hh2⟩ := h1.read a
    obtain ⟨r1, r2, r3⟩ := dmaLoop_sprite a 512 0 (1023 + s.dma.dmcWait) 0 _ rfl (by omega) h2 (by omega) hh2
    have e := dmaLoop_spriteAlign a (1023 + s.dma.dmcWait) 0 0 h1.sprite (by omega) rfl
    rw [show 1023 + s.dma.dmcWait + 1 = 1024 + s.dma.dmcWait by omega] at e
    unfold runDma dmaFuel
    dsimp only
    rw [e]
    exact ⟨r1.trans (by omega), r2, r3⟩

/-! ### A sample fetch alone -/

/-- What a delivery reads of the channel, which the timer leaves alone. -/
structure Dmc.SameSample (d e : Dmc) : Prop where
  curAddr : e.curAddr = d.curAddr
  remaining : e.bytesRemaining = d.bytesRemaining
  irqFlag : e.irqFlag = d.irqFlag
  irqEnabled : e.irqEnabled = d.irqEnabled
  loop : e.loop = d.loop
  addrReg : e.sampleAddrReg = d.sampleAddrReg
  lenReg : e.sampleLenReg = d.sampleLenReg

theorem Dmc.SameSample.trans {d e f : Dmc} (h : d.SameSample e) (k : e.SameSample f) : d.SameSample f :=
  ⟨k.curAddr.trans h.curAddr, k.remaining.trans h.remaining, k.irqFlag.trans h.irqFlag, k.irqEnabled.trans h.irqEnabled,
   k.loop.trans h.loop, k.addrReg.trans h.addrReg, k.lenReg.trans h.lenReg⟩

theorem Dmc.timerStep_curAddr (d : Dmc) : d.timerStep.1.curAddr = d.curAddr := by
  unfold Dmc.timerStep Dmc.clockOutput Dmc.nextByte
  dsimp only
  repeat' split
  all_goals rfl

theorem Dmc.timerStep_sameSample (d : Dmc) : d.SameSample d.timerStep.1 := by
  obtain ⟨he, hl, -, ha, hn, hr, -⟩ := d.timerStep_fields
  exact ⟨d.timerStep_curAddr, hr, d.timerStep_irqFlag, he, hl, ha, hn⟩

/-- `t` is `k` cycles into a fetch that `s` waits for, with `w` cycles of its countdown left. -/
structure State.Fetching (s : State) (w k : Nat) (t : State) : Prop where
  dma : t.dma = { s.dma with haltReq := false, dmcWait := w }
  cyc : t.clk.cyc = s.clk.cyc + k
  dmc : s.apu.dmc.SameSample t.apu.dmc
  frame : ReadFrame s t

/-- One more read of the engine. -/
theorem State.Fetching.read {s t : State} {w k : Nat} (h : s.Fetching w k t) (hd : s.dma.dmcActive = true) (a : Word) :
    s.Fetching (w - 1) (k + 1) (dmaCycleRead a t).2 := by
  have hact : (dmaPrologue t).dma.dmcActive = true := by rw [dmaPrologue_dmcActive, h.dma]; exact hd
  refine ⟨?_, ?_, ?_, ?_⟩
  · refine (readCycle_dma a (dmaPrologue t)).trans ((Dma.request_active hact _).trans ?_)
    show ({ t.dma with haltReq := false, dmcWait := t.dma.dmcWait - 1 } : Dma) = _
    rw [h.dma]
  · have := (readCycle_clk a (dmaPrologue t)).1
    rw [dmaPrologue_clk, h.cyc] at this
    exact this
  · have e := readCycle_dmc a (dmaPrologue t)
    rw [dmaPrologue_apu] at e
    exact h.dmc.trans (e ▸ t.apu.dmc.timerStep_sameSample)
  · exact h.frame.trans ((readFrame_parts.prologue t).trans (readFrame_parts.readCycle a _))

/-- The first read of the engine, its halt cycle. -/
theorem State.Fetching.halt {s : State} (hd : s.dma.dmcActive = true) (a : Word) :
    s.Fetching (s.dma.dmcWait - 1) 1 (dmaCycleRead a s).2 := by
  have hact : (dmaPrologue s).dma.dmcActive = true := hd
  refine ⟨(readCycle_dma a (dmaPrologue s)).trans (Dma.request_active hact _), (readCycle_clk a (dmaPrologue s)).1, ?_,
    (readFrame_parts.prologue s).trans (readFrame_parts.readCycle a _)⟩
  exact (readCycle_dmc a (dmaPrologue s)).symm ▸ s.apu.dmc.timerStep_sameSample

/-- The last read of the engine fetches the byte. -/
theorem State.Fetching.deliver {s t : State} {k : Nat} (h : s.Fetching 0 k t) (hd : s.dma.dmcActive = true) (hs : s.dma.spriteActive = false)
    (he : (s.clk.cyc + k) % 2 = 0) (a : Word) (fuel n : Nat) (v : Byte) : ∃ b u, s.Fetching 0 (k + 1) u ∧
      (∀ x, s.plainByte s.apu.dmc.curAddr = some x → b = x) ∧ dmaLoop a (fuel + 1) n v t = dmcDone b u := by
  have hdt : t.dma.dmcActive = true := by rw [h.dma]; exact hd
  have hwt : t.dma.dmcWait = 0 := by rw [h.dma]
  have hu := h.read hd t.apu.dmc.curAddr
  refine ⟨_, _, hu, fun x hx => ?_, (dmaLoop_fetch a fuel n v hdt (h.cyc ▸ he) hwt).trans (dmaLoop_idle a fuel n v rfl ?_)⟩
  · refine readCycle_plain ?_
    have hp : Untouched s (dmaPrologue t) := (h.frame.trans (readFrame_parts.prologue t)).toUntouched
    rw [State.plainByte_congr hp, h.dmc.curAddr]
    exact hx
  · show (dmaCycleRead t.apu.dmc.curAddr t).2.dma.spriteActive = false
    rw [hu.dma]
    exact hs

/-- A sample fetch alone: its cost, and that it ends with the delivery of the byte at the channel's address (R100, R103, R468). -/
theorem runDma_fetch (a : Word) {s : State} (hd : s.dma.dmcActive = true) (hs : s.dma.spriteActive = false) (hw : s.dma.dmcWait = 2) :
    ∃ b u, s.Fetching 0 (if s.clk.cyc % 2 = 0 then 3 else 4) u ∧ (∀ x, s.plainByte s.apu.dmc.curAddr = some x → b = x) ∧
      runDma a s = dmcDone b u := by
  have h1 := State.Fetching.halt hd a
  have hrun : runDma a s = dmaLoop a (1023 + 2 + 1) 0 0 (dmaCycleRead a s).2 := by unfold runDma dmaFuel; rw [hw]
  rw [hw] at h1
  rw [hrun, dmaLoop_wait a _ 0 0 (by rw [h1.dma]; exact hd) (by rw [h1.dma]; exact hs) (.inr (by rw [h1.dma]; exact Nat.one_ne_zero))]
  have h2 := h1.read hd a
  by_cases he : s.clk.cyc % 2 = 0
  · rw [if_pos he]
    exact h2.deliver hd hs (by omega) a _ 0 0
  · rw [if_neg he, dmaLoop_wait a _ 0 0 (by rw [h2.dma]; exact hd) (by rw [h2.dma]; exact hs) (.inl (by rw [h2.cyc]; omega))]
    exact (h2.read hd a).deliver hd hs (by omega) a _ 0 0

/-! ### The costs together -/

/-- A delivery depends on the channel through what the timer leaves alone. -/
theorem Dmc.Restarted.of_sameSample {d e q : Dmc} (h : d.SameSample e) (k : e.Restarted q) : d.Restarted q := by
  unfold Dmc.Restarted at *
  rwa [h.addrReg, h.lenReg] at k

/-- What a fetch delivers, by the bytes the channel had left (R468, R469). -/
theorem Dmc.deliver_sample {d e : Dmc} (h : d.SameSample e) (v : Byte) :
    (d.bytesRemaining = 0 → (e.deliver v).bytesRemaining = 0 ∧ (e.deliver v).curAddr = d.curAddr ∧ (e.deliver v).irqFlag = d.irqFlag) ∧
    (d.bytesRemaining ≠ 0 → (e.deliver v).bufferFull = true ∧ (e.deliver v).sampleBuffer = v) ∧
    (1 < d.bytesRemaining.toNat → (e.deliver v).bytesRemaining.toNat = d.bytesRemaining.toNat - 1 ∧
      (e.deliver v).curAddr = (if d.curAddr = 0xFFFF then 0x8000 else d.curAddr + 1) ∧ (e.deliver v).irqFlag = d.irqFlag) ∧
    (d.bytesRemaining = 1 → d.loop = true → d.Restarted (e.deliver v) ∧ (e.deliver v).irqFlag = d.irqFlag) ∧
    (d.bytesRemaining = 1 → d.loop = false →
      (e.deliver v).bytesRemaining = 0 ∧ (e.deliver v).irqFlag = (d.irqFlag || d.irqEnabled)) := by
  rw [← h.remaining, ← h.loop, ← h.irqFlag, ← h.irqEnabled, ← h.curAddr]
  refine ⟨fun h0 => ?_, fun h0 => ?_, fun h1 => ?_, fun h1 hl => ?_, fun h1 hl => ?_⟩
  · rw [Dmc.deliver_none h0]
    exact ⟨h0, rfl, rfl⟩
  · by_cases h1 : e.bytesRemaining = 1
    · cases hl : e.loop with
      | true => rw [Dmc.deliver_loop h1 hl]; exact ⟨rfl, rfl⟩
      | false => rw [Dmc.deliver_end h1 hl]; exact ⟨rfl, rfl⟩
    · have h2 : 1 < e.bytesRemaining.toNat := by bv_omega
      rw [Dmc.deliver_more h2]
      exact ⟨rfl, rfl⟩
  · rw [Dmc.deliver_more h1]
    refine ⟨?_, rfl, rfl⟩
    bv_omega
  · rw [Dmc.deliver_loop h1 hl]
    exact ⟨.of_sameSample h (Dmc.restart_restarted { e with sampleBuffer := v, bufferFull := true }), rfl⟩
  · rw [Dmc.deliver_end h1 hl]
    exact ⟨rfl, rfl⟩

/-- Settles O51: the sprite transfer by induction on the accesses left, the fetch by its three or four reads. -/
theorem spriteDmaCost : Obligations.SpriteDmaCost := by
  unfold Obligations.SpriteDmaCost
  refine ⟨fun a s hs hd hr => ?_, fun a s hs hd hw => ?_, fun s => ?_, fun d h => by rw [Dmc.timerStep_counting h], fun d h => ?_⟩
  · obtain ⟨hcyc, hact, hhalt⟩ := runDma_sprite a ⟨hs, hd, hr⟩
    have f := readFrame_cycles.runDma a s
    exact ⟨hcyc, hact, hhalt, f.cpu, f.mem⟩
  · have f := readFrame_cycles.runDma a s
    obtain ⟨b, u, hu, hb, e⟩ := runDma_fetch a hd hs hw
    obtain ⟨d0, dfull, dmore, dloop, dend⟩ := Dmc.deliver_sample hu.dmc b
    have hdmc : (runDma a s).apu.dmc = u.apu.dmc.deliver b := by rw [e]; rfl
    have hdma : (runDma a s).dma = { u.dma with dmcActive := false } := by rw [e]; rfl
    have hcyc : (runDma a s).clk = u.clk := by rw [e]; rfl
    rw [hdmc, hdma, hcyc]
    refine ⟨hu.cyc, rfl, ?_, f.cpu, f.mem, d0, fun h0 => ?_, dmore, dloop, dend⟩
    · dsimp only; rw [hu.dma]
    · obtain ⟨hfull, hbuf⟩ := dfull h0
      exact ⟨hfull, fun v hv => hbuf.trans (hb v hv)⟩
  · have hdma : (apuCycle s).dma = s.dma.request s.apu.dmc.timerStep.2 := congrArg s.dma.request (Apu.apuStep_dmc s.cfg s.clk.cyc s.apu).2
    rw [hdma, Dma.request_eq]
    simp only [Dmc.timerStep_request, and_assoc]
  · have hrate := dmcRate_timer d.rateIndex
    have hlevel := d.nextLevel_toNat
    by_cases hb : d.bitsRemaining = 1
    · cases hf : d.bufferFull with
      | true =>
        rw [Dmc.timerStep_take h hb hf]
        exact ⟨rfl, hrate, hlevel, fun hn => absurd hb hn, fun _ => ⟨rfl, rfl, rfl, fun _ => rfl⟩⟩
      | false =>
        rw [Dmc.timerStep_silent h hb hf]
        exact ⟨rfl, hrate, hlevel, fun hn => absurd hb hn, fun _ => ⟨rfl, hf, rfl, fun e => (nomatch e)⟩⟩
    · rw [Dmc.timerStep_shift h hb]
      exact ⟨rfl, hrate, hlevel, fun _ => ⟨rfl, Nat.shiftRight_eq_div_pow _ 1, rfl, rfl⟩, fun hb' => absurd hb' hb⟩

end Sys2Proof.Machine
end

section
/-! SUPPORT. The ports of the APU, the DMA engine and the controllers, written and read (R102, R371, R455 to R464). -/

namespace Sys2Proof.Machine

/-! ### Stores and loads by their access -/

/-- A store below the mapper's ports is the access between the two half-steps of its cycle (R69, R85). -/
theorem memWrite_low {s : State} (hs : s.fault = none) {a : Word} (h : a.toNat < 0x8000) (v : Byte) :
    memWrite a v s = advance 5 (sampleLines (busWrite a v (startTick .write s))) :=
  memWrite_eq hs ((busWrite_fault_low h v _).trans ((readFrame_parts.startTick .write s).fault.trans hs))

/-- A load with no DMA pending is one read cycle (R84, R176). -/
theorem ldaAbs_readCycle {s : State} (hs : s.fault = none) (hh : s.dma.haltReq = false) (a : Word) :
    exec (.ldaAbs a) s = .next ((readCycle a s).2.setCpu (s.cpu.lda (readCycle a s).1)) := by
  have hm : memRead a s = readCycle a s := by
    unfold memRead
    rw [if_neg (by simp [hs]), if_neg (by simp [hh])]
  show Host.Outcome.next ((memRead a s).2.setCpu ((memRead a s).2.cpu.lda (memRead a s).1)) = _
  rw [memRead_cpu, hm]

/-! ### The channel registers (R455 to R461) -/

/-- A field of a byte is its quotient cut to the field's width. -/
theorem extract_eq {w : Nat} (v : BitVec w) (start len : Nat) : v.extractLsb' start len = BitVec.ofNat len (v.toNat / 2 ^ start) :=
  congrArg (BitVec.ofNat len) (Nat.shiftRight_eq_div_pow _ _)

theorem extract_zero {w : Nat} (v : BitVec w) (len : Nat) : v.extractLsb' 0 len = BitVec.ofNat len v.toNat := rfl

theorem periodLow_eq (v : Byte) (p : BitVec 11) : periodLow v p = loadedPeriod false v p := by
  have hp := p.isLt
  have hv := v.isLt
  apply BitVec.eq_of_toNat_eq
  unfold periodLow loadedPeriod
  rw [extract_eq, BitVec.toNat_append, ← Nat.shiftLeft_add_eq_or_of_lt hv, Nat.shiftLeft_eq]
  simp only [BitVec.toNat_ofNat, Bool.false_eq_true, if_false]
  omega

theorem periodHigh_eq (v : Byte) (p : BitVec 11) : periodHigh v p = loadedPeriod true v p := by
  have hp := p.isLt
  have hv := v.isLt
  have hlow := (p.extractLsb' 0 8).isLt
  apply BitVec.eq_of_toNat_eq
  unfold periodHigh loadedPeriod
  rw [BitVec.toNat_append, ← Nat.shiftLeft_add_eq_or_of_lt hlow, Nat.shiftLeft_eq, extract_zero, extract_zero]
  simp only [BitVec.toNat_ofNat, if_true]
  omega

theorem LengthCounter.load_eq (v : Byte) (l : LengthCounter) : l.load v = l.loaded v := by
  have hv : (v >>> 3).toNat = v.toNat / 8 := Nat.shiftRight_eq_div_pow _ _
  unfold LengthCounter.load LengthCounter.loaded lengthOf
  rw [hv]
  split <;> rfl

theorem Square.written_eq (v : Byte) (q : Square) : q.written v = [q.write 0 v, q.write 1 v, q.write 2 v, q.write 3 v] := by
  have hduty : v.extractLsb' 6 2 = BitVec.ofNat 2 (v.toNat / 64) := extract_eq v 6 2
  have hperiod : v.extractLsb' 4 3 = BitVec.ofNat 3 (v.toNat / 16) := extract_eq v 4 3
  simp only [Square.written, Square.write, Envelope.control, Envelope.controlled, hduty, hperiod, extract_zero, periodLow_eq, periodHigh_eq,
    LengthCounter.load_eq]

theorem Triangle.written_eq (v : Byte) (q : Triangle) : q.written v = [q.write 0 v, q.write 1 v, q.write 2 v, q.write 3 v] := by
  simp only [Triangle.written, Triangle.write, extract_zero, periodLow_eq, periodHigh_eq, LengthCounter.load_eq]

theorem Noise.written_eq (v : Byte) (q : Noise) : q.written v = [q.write 0 v, q.write 1 v, q.write 2 v, q.write 3 v] := by
  simp only [Noise.written, Noise.write, Envelope.control, Envelope.controlled, extract_zero, LengthCounter.load_eq]

theorem Dmc.written_eq (v : Byte) (q : Dmc) : q.written v = [q.write 0 v, q.write 1 v, q.write 2 v, q.write 3 v] := by
  have hirq : (if v.getLsbD 7 = true then q.irqFlag else false) = (q.irqFlag && v.getLsbD 7) := by
    cases v.getLsbD 7 <;> simp
  simp only [Dmc.written, Dmc.write, extract_zero, hirq]

/-- The writes to the channel registers, in the order of their addresses, are what `written` lists. -/
theorem Apu.written_eq (cyc : Nat) (v : Byte) (a : Apu) : a.written v = (List.range 20).map fun r => (a.regWrite cyc r v).1 := by
  unfold Apu.written
  rw [Square.written_eq, Square.written_eq, Triangle.written_eq, Noise.written_eq, Dmc.written_eq]
  rfl

/-- A write to a channel register asks for no sample byte. -/
theorem Apu.regWrite_channel {r : Nat} (h : r < 20) (cyc : Nat) (v : Byte) (a : Apu) : (a.regWrite cyc r v).2 = false := by
  unfold Apu.regWrite
  rw [if_pos h]
  split
  · rfl
  split
  · rfl
  split
  · rfl
  split <;> rfl

theorem Apu.regWrite_of_written {cyc k : Nat} {v : Byte} {a b : Apu} (h : (a.written v)[k]? = some b) :
    k < 20 ∧ a.regWrite cyc k v = (b, false) := by
  rw [Apu.written_eq cyc] at h
  have hk : k < 20 := by
    obtain ⟨hk, -⟩ := List.getElem?_eq_some_iff.mp h
    simpa using hk
  rw [List.getElem?_map, List.getElem?_range hk] at h
  exact ⟨hk, Prod.ext (Option.some.inj h) (Apu.regWrite_channel hk cyc v a)⟩

/-- A store to an APU register does its write to the APU, and to the DMA engine what the write requests (R69, R470). -/
theorem memWrite_apuReg {s : State} (hs : s.fault = none) {a : Word} (h : 0x4000 ≤ a.toNat) (h' : a.toNat ≤ 0x4017)
    (h4 : a.toNat ≠ 0x4014) (h6 : a.toNat ≠ 0x4016) (v : Byte) :
    (memWrite a v s).apu = ((startTick .write s).apu.regWrite (s.clk.cyc + 1) (a.toNat % 32) v).1 ∧
    (memWrite a v s).dma = (startTick .write s).dma.request ((startTick .write s).apu.regWrite (s.clk.cyc + 1) (a.toNat % 32) v).2 ∧
    (memWrite a v s).mem = s.mem := by
  have hb : ∀ t, busTarget a v t = writeApuReg a v t := by
    intro t
    unfold busTarget
    rw [if_neg (by omega), if_neg (by omega), if_neg h4, if_neg h6, if_pos h']
  rw [memWrite_low hs (by omega), busWrite, hb]
  exact ⟨rfl, rfl, (readFrame_parts.startTick .write s).mem⟩

/-! ### The status (R463) -/

/-- The byte with the given bits, the highest first. -/
def byteOfBits (b7 b6 b5 b4 b3 b2 b1 b0 : Bool) : Byte :=
  (if b7 = true then 0x80 else 0) ||| (if b6 = true then 0x40 else 0) ||| (if b5 = true then 0x20 else 0)
    ||| (if b4 = true then 0x10 else 0) ||| (if b3 = true then 8 else 0)
    ||| (if b2 = true then 4 else 0) ||| (if b1 = true then 2 else 0) ||| (if b0 = true then 1 else 0)

theorem byteOfBits_getLsbD : ∀ b7 b6 b5 b4 b3 b2 b1 b0 : Bool, let x := byteOfBits b7 b6 b5 b4 b3 b2 b1 b0
    x.getLsbD 7 = b7 ∧ x.getLsbD 6 = b6 ∧ x.getLsbD 5 = b5 ∧ x.getLsbD 4 = b4 ∧ x.getLsbD 3 = b3 ∧ x.getLsbD 2 = b2 ∧
    x.getLsbD 1 = b1 ∧ x.getLsbD 0 = b0 := by decide

/-- Bit 5 alone of a byte. -/
theorem and_bit5 (d : Byte) : d &&& 0x20 = if d.getLsbD 5 = true then 0x20 else 0 :=
  BitVec.and_twoPow d 5

theorem ne_zero_iff_pos {w : Nat} (x : BitVec w) : x ≠ 0 ↔ 0 < x.toNat := by
  rw [← BitVec.toNat_zero (w := w)]
  exact (BitVec.pos_iff_ne_zero x).symm

/-- The bits of the status, the highest first. -/
theorem Apu.status_eq (d : Byte) (a : Apu) : a.status d = byteOfBits a.dmc.irqFlag a.seq.irqFlag (d.getLsbD 5)
    (decide (0 < a.dmc.bytesRemaining.toNat)) (decide (0 < a.noise.len.value.toNat)) (decide (0 < a.tri.len.value.toNat))
    (decide (0 < a.sq2.len.value.toNat)) (decide (0 < a.sq1.len.value.toNat)) := by
  unfold Apu.status byteOfBits
  rw [and_bit5]
  simp only [decide_eq_true_eq, ne_zero_iff_pos]

/-- The undriven bits are the data-bus latch's, unless the machine answers a free value (log entry 14). -/
theorem floatingBits_value {s : State} (h : s.cfg.cpuOpenBus ≠ .anyValue) (a : Word) : (floatingBits a s).1 = s.dbus := by
  unfold floatingBits
  split
  · rfl
  · rfl
  · exact absurd ‹_› h

/-- The load from `$4015` (R463). -/
theorem ldaStatus_effect {s : State} (hs : s.fault = none) (hh : s.dma.haltReq = false) :
    ∃ t d, exec (.ldaAbs 0x4015) s = .next t ∧ Untouched s t ∧ t.cpu = s.cpu.lda ((startTick .read s).apu.status d) ∧
      (s.cfg.cpuOpenBus ≠ .anyValue → d = s.dbus) ∧
      t.apu = { (startTick .read s).apu with seq := { (startTick .read s).apu.seq with irqFlag := false } } := by
  have f := readFrame_parts.readCycle 0x4015 s
  refine ⟨_, (floatingBits 0x4015 (startTick .read s)).1, ldaAbs_readCycle hs hh 0x4015,
    f.toUntouched.trans (State.setCpu_untouched _ _), rfl, fun h => floatingBits_value (s := startTick .read s) h 0x4015, rfl⟩

/-! ### The sample channel's enable (R462, R468) -/

theorem Dmc.enable_restart {d : Dmc} (h : d.bytesRemaining = 0) : d.enable true = ({ d.restart with irqFlag := false }, !d.bufferFull) :=
  (if_neg (by decide)).trans (if_pos h)

theorem Dmc.enable_goesOn {d : Dmc} (h : d.bytesRemaining ≠ 0) : d.enable true = ({ d with irqFlag := false }, false) :=
  (if_neg (by decide)).trans (if_neg h)

theorem Dmc.enable_irqFlag (b : Bool) (d : Dmc) : (d.enable b).1.irqFlag = false := by
  unfold Dmc.enable
  repeat' split
  all_goals rfl

theorem LengthCounter.enable_eq (b : Bool) (l : LengthCounter) : (l.enable b).enabled = b ∧ (b = false → (l.enable b).value = 0) := by
  cases b
  · exact ⟨rfl, fun _ => rfl⟩
  · exact ⟨rfl, fun h => (nomatch h)⟩

/-! ### The stores -/

/-- `$4014` (R102). -/
theorem memWrite_spriteDma {s : State} (hs : s.fault = none) (v : Byte) :
    (memWrite 0x4014 v s).dma = (startTick .write s).dma.startSprite v ∧ (memWrite 0x4014 v s).mem = s.mem := by
  rw [memWrite_low hs (by decide)]
  exact ⟨rfl, (readFrame_parts.startTick .write s).mem⟩

/-- `$4016` (R371). -/
theorem memWrite_strobe {s : State} (hs : s.fault = none) (v : Byte) :
    (memWrite 0x4016 v s).pads = s.pads.writeStrobe v ∧ (memWrite 0x4016 v s).mem = s.mem := by
  rw [memWrite_low hs (by decide)]
  exact ⟨rfl, (readFrame_parts.startTick .write s).mem⟩

theorem Pads.writeStrobe_eq (v : Byte) (p : Pads) : (p.writeStrobe v).strobe = v.getLsbD 0 ∧
    (v.getLsbD 0 = true → (p.writeStrobe v).shift0 = p.buttons0 ∧ (p.writeStrobe v).shift1 = p.buttons1) := by
  unfold Pads.writeStrobe
  cases h : v.getLsbD 0
  · exact ⟨rfl, fun e => (nomatch e)⟩
  · exact ⟨rfl, fun _ => ⟨rfl, rfl⟩⟩

/-- `$4017` written in the cycle after `cyc` (R464). -/
theorem FrameSeq.write_eq (cyc : Nat) (v : Byte) (f : FrameSeq) :
    (f.write (cyc + 1) v).pendingDelay = (if cyc % 2 = 0 then 4 else 3) ∧ (v.getLsbD 6 = true → (f.write (cyc + 1) v).irqFlag = false) := by
  constructor
  · show (if (cyc + 1) % 2 = 0 then 3 else 4) = _
    split <;> split <;> omega
  · intro h
    show (f.irqFlag && !v.getLsbD 6) = false
    rw [h]
    exact Bool.and_false _

/-- The channels after a store to `$4015` (R462). -/
theorem Apu.writeEnable_lengths (v : Byte) (a : Apu) :
    ((a.writeEnable v).1.sq1.len = a.sq1.len.enable (v.getLsbD 0) ∧ (a.writeEnable v).1.sq2.len = a.sq2.len.enable (v.getLsbD 1) ∧
    (a.writeEnable v).1.tri.len = a.tri.len.enable (v.getLsbD 2) ∧ (a.writeEnable v).1.noise.len = a.noise.len.enable (v.getLsbD 3)) ∧
    (a.writeEnable v).1.dmc = (a.dmc.enable (v.getLsbD 4)).1 ∧ (a.writeEnable v).2 = (a.dmc.enable (v.getLsbD 4)).2 :=
  ⟨⟨rfl, rfl, rfl, rfl⟩, rfl, rfl⟩

/-- `$4015` (R462, R470). -/
theorem memWrite_soundEnable {s : State} (hs : s.fault = none) (v : Byte) :
    (memWrite 0x4015 v s).apu = ((startTick .write s).apu.writeEnable v).1 ∧
    (memWrite 0x4015 v s).dma = (startTick .write s).dma.request ((startTick .write s).apu.writeEnable v).2 ∧
    (memWrite 0x4015 v s).mem = s.mem :=
  memWrite_apuReg hs (a := 0x4015) (by decide) (by decide) (by decide) (by decide) v

/-- The first half-step of a cycle leaves alone what a delivery or a restart reads of the sample channel. -/
theorem startTick_sameSample (k : Access) (s : State) : s.apu.dmc.SameSample (startTick k s).apu.dmc := by
  rw [startTick_apu, (Apu.apuStep_dmc _ _ _).1]
  exact s.apu.dmc.timerStep_sameSample

/-- Settles O56: each port by the access of its cycle. -/
theorem apuAndDmaPortStores : Obligations.ApuAndDmaPortStores := by
  unfold Obligations.ApuAndDmaPortStores
  intro s hs
  refine ⟨⟨memWrite 0x4014 s.cpu.a s, rfl, ?_⟩, ⟨memWrite 0x4016 s.cpu.a s, rfl, ?_⟩, ⟨memWrite 0x4017 s.cpu.a s, rfl, ?_⟩,
    ⟨memWrite 0x4015 s.cpu.a s, rfl, ?_⟩, fun k b h => ?_, fun hh => ?_⟩
  · obtain ⟨hd, hm⟩ := memWrite_spriteDma hs s.cpu.a
    rw [hd]
    exact ⟨rfl, rfl, rfl, hm, memWrite_cpu _ _ _⟩
  · obtain ⟨hp, hm⟩ := memWrite_strobe hs s.cpu.a
    obtain ⟨hst, hsh⟩ := s.pads.writeStrobe_eq s.cpu.a
    rw [hp]
    exact ⟨hst, hm, memWrite_cpu _ _ _, hsh⟩
  · obtain ⟨ha, -, hm⟩ := memWrite_apuReg hs (a := 0x4017) (by decide) (by decide) (by decide) (by decide) s.cpu.a
    obtain ⟨hdelay, hirq⟩ := (startTick .write s).apu.seq.write_eq s.clk.cyc s.cpu.a
    rw [ha]
    exact ⟨rfl, rfl, hdelay, hirq, hm, memWrite_cpu _ _ _⟩
  · obtain ⟨ha, hdma, hm⟩ := memWrite_soundEnable hs s.cpu.a
    have hsame := startTick_sameSample .write s
    have htick := startTick_dma .write s
    generalize startTick .write s = u at *
    obtain ⟨⟨h1, h2, h3, h4⟩, hd, hreq⟩ := u.apu.writeEnable_lengths s.cpu.a
    rw [ha, hdma, h1, h2, h3, h4, hd, hreq]
    obtain ⟨e1, z1⟩ := u.apu.sq1.len.enable_eq (s.cpu.a.getLsbD 0)
    obtain ⟨e2, z2⟩ := u.apu.sq2.len.enable_eq (s.cpu.a.getLsbD 1)
    obtain ⟨e3, z3⟩ := u.apu.tri.len.enable_eq (s.cpu.a.getLsbD 2)
    obtain ⟨e4, z4⟩ := u.apu.noise.len.enable_eq (s.cpu.a.getLsbD 3)
    refine ⟨hm, memWrite_cpu _ _ _, Dmc.enable_irqFlag _ _, e1, e2, e3, e4, z1, z2, z3, z4, fun h => by rw [h]; rfl, fun h h0 => ?_, fun h h0 => ?_⟩
    · rw [h, Dmc.enable_restart (hsame.remaining.trans h0)]
      refine ⟨.of_sameSample hsame u.apu.dmc.restart_restarted, ?_⟩
      have hquiet : s.dma.request false = s.dma := rfl
      rw [htick, (Dmc.timerStep_quiet h0).1, hquiet, Dma.request_eq]
      simp only [Bool.not_eq_true']
    · rw [h, Dmc.enable_goesOn (by rw [hsame.remaining]; exact h0)]
      exact ⟨hsame.remaining, hsame.curAddr⟩
  · obtain ⟨hk, hw⟩ := Apu.regWrite_of_written (cyc := s.clk.cyc + 1) h
    have hn : (0x4000 + BitVec.ofNat 16 k).toNat = 0x4000 + k := by bv_omega
    obtain ⟨ha, hdma, hm⟩ := memWrite_apuReg hs (a := 0x4000 + BitVec.ofNat 16 k) (by omega) (by omega) (by omega) (by omega) s.cpu.a
    rw [hn, show (0x4000 + k) % 32 = k by omega, hw] at ha hdma
    exact ⟨memWrite (0x4000 + BitVec.ofNat 16 k) s.cpu.a s, rfl, ha, hdma, hm, memWrite_cpu _ _ _⟩
  · obtain ⟨t, d, he, hu, hc, hd, ha⟩ := ldaStatus_effect hs hh
    have hca : t.cpu.a = (startTick .read s).apu.status d := congrArg Cpu.a hc
    have hcpu : t.cpu = { s.cpu with a := t.cpu.a, p := s.cpu.p.zn t.cpu.a } := by rw [hc]; rfl
    obtain ⟨b7, b6, b5, b4, b3, b2, b1, b0⟩ := byteOfBits_getLsbD (startTick .read s).apu.dmc.irqFlag (startTick .read s).apu.seq.irqFlag (d.getLsbD 5)
      (decide (0 < (startTick .read s).apu.dmc.bytesRemaining.toNat)) (decide (0 < (startTick .read s).apu.noise.len.value.toNat))
      (decide (0 < (startTick .read s).apu.tri.len.value.toNat)) (decide (0 < (startTick .read s).apu.sq2.len.value.toNat))
      (decide (0 < (startTick .read s).apu.sq1.len.value.toNat))
    rw [← Apu.status_eq, ← hca] at *
    exact ⟨t, he, hu, hcpu, ha, b7, b6, fun h => b5.trans (by rw [hd h]), b4, b3, b2, b1, b0⟩

end Sys2Proof.Machine
end

section
/-! SUPPORT. The PPU's data ports, written and read while rendering is disabled (R78, R400, R404, R405, R408, R409). -/

namespace Sys2Proof.Machine

/-! ### The addresses of the data port -/

theorem vramAddr_toNat (v : BitVec 15) : (vramAddr v).toNat = v.toNat % 16384 := BitVec.toNat_setWidth 14 v

/-- The palette entry `V` addresses, mirrors folded (R78). -/
theorem paletteIndex_vramAddr (v : BitVec 15) : paletteIndex (vramAddr v) = if v.toNat % 4 = 0 then v.toNat % 16 else v.toNat % 32 := by
  unfold paletteIndex
  rw [vramAddr_toNat]
  dsimp only
  split <;> split <;> omega

/-! ### The picture processor without rendering -/

/-- What the idle frame keeps of the ports. -/
theorem Ppu.IdleFrame.fields {p q : Ppu} (h : p.IdleFrame q) :
    q.v = p.v ∧ q.oam = p.oam ∧ q.oamAddr = p.oamAddr ∧ q.palette = p.palette ∧ q.ctrl = p.ctrl ∧ q.mask = p.mask ∧
    q.readBuffer = p.readBuffer ∧ q.ioLatch = p.ioLatch := by
  rw [h]
  exact ⟨rfl, rfl, rfl, rfl, rfl, rfl, rfl, rfl⟩

/-- The first half-step without rendering. -/
theorem startTick_idle (k : Access) {s : State} (h : s.ppu.rendering = false) :
    s.ppu.IdleFrame (startTick k s).ppu ∧ (startTick k s).cart = s.cart :=
  advance_idle k.before (s := { s with clk := { s.clk with cyc := s.clk.cyc + 1 } }) h

theorem Ppu.rendering_congr {p q : Ppu} (h : q.mask = p.mask) : q.rendering = p.rendering := by
  unfold Ppu.rendering
  rw [h]

/-! ### Stores -/

/-- A store to a port other than `PPUMASK`, without rendering: the register's write between two idle half-steps. -/
theorem memWrite_idlePort {a : Word} {s : State} (hs : s.fault = none) (h : 0x2000 ≤ a.toNat) (h' : a.toNat < 0x4000)
    (hr : s.ppu.rendering = false) (h1 : a.toNat % 8 ≠ 1) (v : Byte) :
    ∃ mem now p c, s.ppu.IdleFrame p ∧ (p.regWrite mem now (a.toNat % 8) v c).ppu.IdleFrame (memWrite a v s).ppu := by
  let u := startTick .write s
  have hu : s.ppu.IdleFrame u.ppu := (startTick_idle .write hr).1
  have hm := (u.ppu.regWrite_fields u.mem u.dots (a.toNat % 8) v u.cart).2.1 h1
  refine ⟨u.mem, u.dots, u.ppu, u.cart, hu, ?_⟩
  rw [memWrite_low hs (by omega), ← busWrite_ppuReg h h']
  refine (advance_idle 5 (s := sampleLines (busWrite a v u)) ?_).1
  rw [sampleLines_ppu, busWrite_ppuReg h h']
  exact (Ppu.rendering_congr hm).trans (hu.rendering.trans hr)

/-- The memory after a store to a PPU register without rendering: the byte `V` addresses below the palette, for the data port (R409). -/
theorem memWrite_idlePort_mem {a : Word} {s : State} (hs : s.fault = none) (h : 0x2000 ≤ a.toNat) (h' : a.toNat < 0x4000)
    (hr : s.ppu.rendering = false) (v : Byte) :
    (memWrite a v s).mem = s.mem.storeAt (if a.toNat % 8 = 7 ∧ s.ppu.v.toNat % 16384 < 0x3F00
      then s.cart.ppuSpace.place (s.ppu.v.toNat % 16384) else none) v := by
  obtain ⟨hu, hc⟩ := startTick_idle .write hr
  obtain ⟨hv, -⟩ := hu.fields
  have hw : s.atWrite.writePlace a = if a.toNat % 8 = 7 ∧ s.ppu.v.toNat % 16384 < 0x3F00
      then s.cart.ppuSpace.place (s.ppu.v.toNat % 16384) else none := by
    unfold State.writePlace State.atWrite
    rw [if_neg (by omega), if_pos h', hc, hv, vramAddr_toNat]
  rw [memWrite_mem hs, State.memAfterWrite, hw]

/-- The write of the data port (R409). -/
theorem Ppu.writeData_eq (mem : Buffers) (now : Nat) (v : Byte) (p : Ppu) (c : Cart) :
    (p.writeData mem now v c).ppu.v = p.v + (if p.ctrl.getLsbD 2 = true then 32 else 1) ∧
    (p.v.toNat % 16384 < 0x3F00 → (p.writeData mem now v c).ppu.palette = p.palette) ∧
    (0x3F00 ≤ p.v.toNat % 16384 → (p.writeData mem now v c).ppu.palette =
      p.palette.write (if p.v.toNat % 4 = 0 then p.v.toNat % 16 else p.v.toNat % 32) (v &&& 0x3F)) := by
  unfold Ppu.writeData
  dsimp only
  rw [vramAddr_toNat]
  split
  next hlow => exact ⟨rfl, fun _ => rfl, fun h => absurd hlow (by omega)⟩
  next hlow =>
    refine ⟨rfl, fun h => absurd h hlow, fun _ => ?_⟩
    show p.palette.write (paletteIndex (vramAddr p.v)) (v &&& 0x3F &&& 0x3F) = _
    rw [paletteIndex_vramAddr, BitVec.and_assoc, BitVec.and_self]

/-! ### Loads -/

theorem busAnswer_ppuReg {a : Word} (h : 0x2000 ≤ a.toNat) (h' : a.toNat < 0x4000) (s : State) : busAnswer a s = readPpuReg a s := by
  unfold busAnswer
  rw [if_neg (by omega), if_pos h']

/-- A load from a PPU register with no DMA pending: the register's read after the first half-step of its cycle. -/
theorem ldaAbs_ppuReg {a : Word} {s : State} (hs : s.fault = none) (hh : s.dma.haltReq = false) (h : 0x2000 ≤ a.toNat) (h' : a.toNat < 0x4000) :
    ∃ t now, exec (.ldaAbs a) s = .next t ∧ Untouched s t ∧
      let r := (startTick .read s).ppu.regRead s.mem now (muteDots s.cfg) (a.toNat % 8) (startTick .read s).cart
      t.cpu = s.cpu.lda r.1 ∧ (busRead a (startTick .read s)).2.ppu = r.2.1 ∧
      t.ppu = (advance 7 (busRead a (startTick .read s)).2).ppu := by
  have f := readFrame_parts.readCycle a s
  refine ⟨_, (startTick .read s).dots, ldaAbs_readCycle hs hh a,
    f.toUntouched.trans (State.setCpu_untouched _ _), ?_, ?_, rfl⟩
  · show s.cpu.lda (busAnswer a (startTick .read s)).1 = _
    rw [busAnswer_ppuReg h h']
    rfl
  · show (busAnswer a (startTick .read s)).2.ppu = _
    rw [busAnswer_ppuReg h h']
    rfl

/-- The same without rendering, where the second half-step is idle. -/
theorem ldaAbs_idlePort {a : Word} {s : State} (hs : s.fault = none) (hh : s.dma.haltReq = false) (h : 0x2000 ≤ a.toNat) (h' : a.toNat < 0x4000)
    (hr : s.ppu.rendering = false) :
    ∃ t p now, exec (.ldaAbs a) s = .next t ∧ Untouched s t ∧ s.ppu.IdleFrame p ∧
      t.cpu = s.cpu.lda (p.regRead s.mem now (muteDots s.cfg) (a.toNat % 8) s.cart).1 ∧
      (p.regRead s.mem now (muteDots s.cfg) (a.toNat % 8) s.cart).2.1.IdleFrame t.ppu := by
  obtain ⟨t, now, he, hu, hc, hb, ht⟩ := ldaAbs_ppuReg hs hh h h'
  obtain ⟨hi, hcart⟩ := startTick_idle .read hr
  rw [hcart] at hc hb
  refine ⟨t, (startTick .read s).ppu, now, he, hu, hi, hc, ?_⟩
  rw [ht, ← hb]
  refine (advance_idle 7 ?_).1
  rw [hb]
  have hm := ((startTick .read s).ppu.regRead_frame s.mem now (muteDots s.cfg) (a.toNat % 8) s.cart).2.1
  exact (Ppu.rendering_congr hm).trans (hi.rendering.trans hr)

/-- The read of the data port (R408). -/
theorem Ppu.readData_eq (mem : Buffers) (now : Nat) (p : Ppu) (c : Cart) :
    (p.readData mem now c).2.1.v = p.v + (if p.ctrl.getLsbD 2 = true then 32 else 1) ∧
    (p.readData mem now c).2.1.ioLatch = (p.readData mem now c).1 ∧
    (p.v.toNat % 16384 < 0x3F00 → (p.readData mem now c).1 = p.readBuffer ∧
      ∀ b, c.ppuSpace.read mem (p.v.toNat % 16384) = some b → (p.readData mem now c).2.1.readBuffer = b) ∧
    (0x3F00 ≤ p.v.toNat % 16384 →
      (p.readData mem now c).1 = ((p.palette.read (if p.v.toNat % 4 = 0 then p.v.toNat % 16 else p.v.toNat % 32)
        &&& (if p.mask.getLsbD 0 = true then 0x30 else 0x3F)) ||| (p.ioLatch &&& 0xC0)) ∧
      ∀ b, c.ppuSpace.read mem (p.v.toNat % 16384 - 0x1000) = some b → (p.readData mem now c).2.1.readBuffer = b) := by
  refine ⟨rfl, rfl, fun hlow => ?_, fun hhigh => ?_⟩
  · have hd : decide (0x3F00 ≤ (vramAddr p.v).toNat) = false := decide_eq_false (by rw [vramAddr_toNat]; omega)
    unfold Ppu.readData Cart.ppuRead
    simp only [hd, Bool.false_eq_true, if_false]
    rw [vramAddr_toNat]
    exact ⟨rfl, fun b hb => by rw [hb]; rfl⟩
  · have hd : decide (0x3F00 ≤ (vramAddr p.v).toNat) = true := decide_eq_true (by rw [vramAddr_toNat]; exact hhigh)
    have hsub : (vramAddr p.v - 0x1000).toNat = p.v.toNat % 16384 - 0x1000 := by
      have hv := vramAddr_toNat p.v
      bv_omega
    unfold Ppu.readData Cart.ppuRead Ppu.paletteRead
    simp only [hd, if_true, hsub, paletteIndex_vramAddr]
    exact ⟨rfl, fun b hb => by rw [hb]; rfl⟩

/-- Settles O54: each access between two half-steps that leave the ports alone. -/
theorem ppuDataPorts : Obligations.PpuDataPorts := by
  unfold Obligations.PpuDataPorts
  intro a s hs h h' hr
  constructor
  · have hmem := memWrite_idlePort_mem hs h h' hr s.cpu.a
    refine ⟨memWrite a s.cpu.a s, rfl, memWrite_cpu _ _ _, fun h3 => ?_, fun h4 => ?_, fun h7 => ?_⟩
    · obtain ⟨mem, now, p, c, hp, ht⟩ := memWrite_idlePort hs h h' hr (by omega) s.cpu.a
      rw [h3] at ht hmem
      obtain ⟨-, hoam, -⟩ := hp.fields
      obtain ⟨-, toam, taddr, -⟩ := ht.fields
      exact ⟨taddr, hmem, toam.trans hoam⟩
    · obtain ⟨mem, now, p, c, hp, ht⟩ := memWrite_idlePort hs h h' hr (by omega) s.cpu.a
      rw [h4] at ht hmem
      obtain ⟨-, hoam, haddr, -⟩ := hp.fields
      obtain ⟨-, toam, taddr, -⟩ := ht.fields
      rw [← hoam, ← haddr]
      refine ⟨taddr, hmem, toam.trans ?_⟩
      show p.oam.write p.oamAddr.toNat (pick _ _ _) = _
      unfold pick
      simp only [decide_eq_true_eq]
    · obtain ⟨mem, now, p, c, hp, ht⟩ := memWrite_idlePort hs h h' hr (by omega) s.cpu.a
      rw [h7] at ht hmem
      obtain ⟨hv, -, -, hpal, hctrl, -⟩ := hp.fields
      obtain ⟨tv, -, -, tpal, -⟩ := ht.fields
      obtain ⟨wv, wlow, whigh⟩ := Ppu.writeData_eq mem now s.cpu.a { p with ioLatch := s.cpu.a } c
      rw [← hv] at hmem ⊢
      rw [← hctrl, ← hpal]
      refine ⟨tv.trans wv, fun hlow => ⟨tpal.trans (wlow hlow), ?_⟩, fun hhigh => ⟨?_, tpal.trans (whigh hhigh)⟩⟩
      · rw [hmem, if_pos ⟨rfl, hlow⟩]
      · rw [hmem, if_neg (by omega)]
        rfl
  · intro hh
    obtain ⟨t, p, now, he, hu, hp, hc, ht⟩ := ldaAbs_idlePort hs hh h h' hr
    have ha := congrArg Cpu.a hc
    have hcpu : t.cpu = { s.cpu with a := t.cpu.a, p := s.cpu.p.zn t.cpu.a } := by rw [hc]; rfl
    refine ⟨t, he, hu, hcpu, fun h4 => ?_, fun h7 => ?_⟩
    · rw [h4] at ha ht
      obtain ⟨-, hoam, haddr, -⟩ := hp.fields
      obtain ⟨-, toam, taddr, -, -, -, -, tlatch⟩ := ht.fields
      rw [← hoam, ← haddr]
      exact ⟨ha, toam, taddr, tlatch.trans ha.symm⟩
    · rw [h7] at ha ht
      obtain ⟨hv, -, -, hpal, hctrl, hmask, hbuf, hlatch⟩ := hp.fields
      obtain ⟨tv, -, -, -, -, -, tbuf, tlatch⟩ := ht.fields
      obtain ⟨rv, rlatch, rlow, rhigh⟩ := p.readData_eq s.mem now s.cart
      rw [← hv, ← hpal, ← hctrl, ← hmask, ← hbuf, ← hlatch]
      refine ⟨tv.trans rv, tlatch.trans (rlatch.trans ha.symm), fun hlow => ?_, fun hhigh => ?_⟩
      · obtain ⟨ra, rb⟩ := rlow hlow
        exact ⟨ha.trans ra, fun b hb => tbuf.trans (rb b hb)⟩
      · obtain ⟨ra, rb⟩ := rhigh hhigh
        exact ⟨ha.trans ra, fun b hb => tbuf.trans (rb b hb)⟩

end Sys2Proof.Machine
end

section
/-! SUPPORT. The status port of the PPU: the flags, and the muted vertical blank (R391, R392, R403, R571). -/

namespace Sys2Proof.Machine

/-! ### The vertical-blank flag over a dot -/

/-- Two states with the same vertical-blank flag and the same pending suppression. -/
def Ppu.SameVblank (p q : Ppu) : Prop := q.nmiOccurred = p.nmiOccurred ∧ q.suppressVbl = p.suppressVbl

theorem Ppu.SameVblank.refl (p : Ppu) : p.SameVblank p := ⟨rfl, rfl⟩

theorem Ppu.SameVblank.trans {p q r : Ppu} (h : p.SameVblank q) (k : q.SameVblank r) : p.SameVblank r :=
  ⟨k.1.trans h.1, k.2.trans h.2⟩

theorem Ppu.backgroundDot_vblank (mem : Buffers) (now d : Nat) (p : Ppu) (c : Cart) : p.SameVblank (p.backgroundDot mem now d c).1 := by
  unfold Ppu.backgroundDot Ppu.scrollDot Ppu.fetchBg
  repeat' split
  all_goals exact ⟨rfl, rfl⟩

theorem Ppu.loadDot_vblank (mem : Buffers) (now s d : Nat) (p : Ppu) (c : Cart) : p.SameVblank (p.loadDot mem now s d c).1 := by
  unfold Ppu.loadDot
  split <;> exact ⟨rfl, rfl⟩

theorem Ppu.visibleDot_vblank (mem : Buffers) (now s d : Nat) (p : Ppu) (c : Cart) : p.SameVblank (p.visibleDot mem now s d c).1 := by
  have hsmall : p.SameVblank (((p.clearDot d).pixelDot s d).selectDot s d) := by
    unfold Ppu.clearDot Ppu.pixelDot Ppu.selectDot
    repeat' split
    all_goals exact ⟨rfl, rfl⟩
  unfold Ppu.visibleDot
  split
  · exact (hsmall.trans (Ppu.loadDot_vblank mem now s d _ c)).trans (Ppu.backgroundDot_vblank mem now d _ _)
  · unfold Ppu.backdropDot
    split <;> exact ⟨rfl, rfl⟩

/-- A pre-render dot with the flag clear leaves it clear. -/
theorem Ppu.preRenderDot_vblank (mem : Buffers) (now d : Nat) {p : Ppu} (h : p.nmiOccurred = false) (c : Cart) :
    p.SameVblank (p.preRenderDot mem now d c).1 := by
  have hflags : p.SameVblank (p.flagsDot d) := by
    unfold Ppu.flagsDot
    split
    · exact ⟨h.symm, rfl⟩
    · exact .refl p
  have hcopy : ∀ q : Ppu, q.SameVblank ((q.horizontalDot d).verticalDot d) := by
    intro q
    unfold Ppu.horizontalDot Ppu.verticalDot
    repeat' split
    all_goals exact ⟨rfl, rfl⟩
  unfold Ppu.preRenderDot
  split
  · exact ((hflags.trans (Ppu.backgroundDot_vblank mem now d _ c)).trans (hcopy _)).trans (Ppu.loadDot_vblank mem now 261 d _ _)
  · exact hflags

/-- The position of `VblankStart` (R391). -/
def Ppu.atVblank (p : Ppu) : Prop := p.scanline = 241 ∧ p.dot = 1

/-- Any other dot leaves a clear flag clear, and the suppression pending. -/
theorem Ppu.dotActions_vblank (mem : Buffers) (now : Nat) {p : Ppu} (h : p.nmiOccurred = false) (hp : ¬ p.atVblank) (c : Cart) :
    p.SameVblank (p.dotActions mem now c).1 := by
  unfold Ppu.dotActions
  split
  · exact p.visibleDot_vblank mem now _ _ c
  split
  · unfold Ppu.postRenderDot
    split <;> exact ⟨rfl, rfl⟩
  split
  next h241 =>
    unfold Ppu.vblankDot
    rw [if_neg fun hd => hp ⟨h241, hd⟩]
    exact .refl p
  split
  · exact Ppu.preRenderDot_vblank mem now _ h c
  · exact .refl p

/-- `VblankStart` sets the flag unless it is suppressed, and spends the suppression (R391). -/
theorem Ppu.dotActions_atVblank (mem : Buffers) (now : Nat) {p : Ppu} (hp : p.atVblank) (c : Cart) : (p.dotActions mem now c).1 = p.vblankStart := by
  obtain ⟨hs, hd⟩ := hp
  unfold Ppu.dotActions Ppu.vblankDot
  rw [if_neg (by omega), if_neg (by omega), if_pos hs, if_pos hd]

theorem Ppu.advance_vblank (s d : Nat) (p : Ppu) : p.SameVblank (p.advance s d) := by
  unfold Ppu.advance
  repeat' split
  all_goals exact ⟨rfl, rfl⟩

theorem Ppu.dotStep_vblank (mem : Buffers) (now : Nat) {p : Ppu} (h : p.nmiOccurred = false) (hp : ¬ p.atVblank) (c : Cart) :
    p.SameVblank (p.dotStep mem now c).1 :=
  (Ppu.dotActions_vblank mem now h hp c).trans (Ppu.advance_vblank _ _ _)

theorem Ppu.dotStep_atVblank (mem : Buffers) (now : Nat) {p : Ppu} (hp : p.atVblank) (c : Cart) :
    (p.dotStep mem now c).1.nmiOccurred = (p.nmiOccurred || !p.suppressVbl) ∧ (p.dotStep mem now c).1.suppressVbl = false := by
  have h := Ppu.advance_vblank p.scanline p.dot (p.dotActions mem now c).1
  rw [Ppu.dotActions_atVblank mem now hp c] at h
  unfold Ppu.dotStep
  dsimp only
  rw [Ppu.dotActions_atVblank mem now hp c]
  exact h

/-- The dot before `VblankStart` is (241, 0). -/
theorem Ppu.dotStep_next_atVblank (mem : Buffers) (now : Nat) (p : Ppu) (c : Cart) :
    (p.dotStep mem now c).1.atVblank ↔ p.scanline = 241 ∧ p.dot = 0 := by
  have hs := p.dotActions_scanline mem now c
  unfold Ppu.dotStep Ppu.advance Ppu.atVblank
  dsimp only
  split
  · dsimp only; omega
  split
  · dsimp only; omega
  · dsimp only; omega

/-! ### The dots that follow the access -/

/-- The dots after the access of a read cycle: two, one for offset 1 (R87). -/
theorem State.ClockOk.dots_after {s : State} (h : s.ClockOk) (h1 : 1 ≤ s.clk.cyc) :
    dotsUntil ((startTick .read s).clk.mclk + 7 - s.cfg.ppuOffset.val) (startTick .read s).clk.ppuClk = if s.cfg.ppuOffset.val = 1 then 1 else 2 := by
  have hb := (h.dots_before h1).1
  obtain ⟨hm, hp⟩ := h
  have hoff := s.cfg.ppuOffset.isLt
  rw [startTick_clk]
  show dotsUntil (s.clk.mclk + 5 + 7 - s.cfg.ppuOffset.val)
    (s.clk.ppuClk + 4 * dotsUntil (s.clk.mclk + 5 - s.cfg.ppuOffset.val) s.clk.ppuClk) = _
  rw [hb]
  generalize s.cfg.ppuOffset.val = off at *
  unfold dotsUntil
  split <;> omega

/-- The second half-step of a read cycle runs those dots. -/
theorem advance_after {s u : State} (h : s.ClockOk) (h1 : 1 ≤ s.clk.cyc) (hc : u.clk = (startTick .read s).clk) (hcfg : u.cfg = s.cfg) :
    (advance 7 u).ppu = (runDots u.mem (if s.cfg.ppuOffset.val = 1 then 1 else 2) u.clk.ppuClk u.ppu u.cart).1 := by
  rw [← h.dots_after h1, ← hc, ← hcfg]
  rfl

/-- One dot after an access that left the flag clear, and suppressed it if the dot is (241, 1): it stays clear. -/
theorem Ppu.dotStep_muted (mem : Buffers) (now : Nat) {p : Ppu} (h : p.nmiOccurred = false) (hm : p.atVblank → p.suppressVbl = true) (c : Cart) :
    (p.dotStep mem now c).1.nmiOccurred = false ∧ (p.atVblank → (p.dotStep mem now c).1.suppressVbl = false) ∧
    (¬ p.atVblank → (p.dotStep mem now c).1.suppressVbl = p.suppressVbl) := by
  by_cases hp : p.atVblank
  · obtain ⟨hn, hs⟩ := Ppu.dotStep_atVblank mem now hp c
    refine ⟨?_, fun _ => hs, fun h => absurd hp h⟩
    rw [hn, h, hm hp]
    rfl
  · obtain ⟨hn, hs⟩ := Ppu.dotStep_vblank mem now h hp c
    exact ⟨hn.trans h, fun h => absurd h hp, fun _ => hs⟩

/-- Two dots after such an access: the flag is set if the second is (241, 1) and nothing suppressed it. -/
theorem runDots_two_muted (mem : Buffers) (k : Nat) {p : Ppu} (h : p.nmiOccurred = false) (hm : p.atVblank → p.suppressVbl = true) (c : Cart) :
    ((runDots mem 2 k p c).1.nmiOccurred = true ↔ p.scanline = 241 ∧ p.dot = 0 ∧ p.suppressVbl = false) ∧
    (p.atVblank → (runDots mem 2 k p c).1.suppressVbl = false) ∧
    (p.scanline = 241 → p.dot = 0 → (runDots mem 2 k p c).1.suppressVbl = false) := by
  obtain ⟨hn1, hspent, hkept⟩ := Ppu.dotStep_muted mem (k / 4) h hm c
  have hnext := Ppu.dotStep_next_atVblank mem (k / 4) p c
  show ((Ppu.dotStep mem ((k + 4) / 4) (p.dotStep mem (k / 4) c).1 (p.dotStep mem (k / 4) c).2).1.nmiOccurred = true ↔ _) ∧
    (_ → (Ppu.dotStep mem ((k + 4) / 4) (p.dotStep mem (k / 4) c).1 (p.dotStep mem (k / 4) c).2).1.suppressVbl = false) ∧
    (_ → _ → (Ppu.dotStep mem ((k + 4) / 4) (p.dotStep mem (k / 4) c).1 (p.dotStep mem (k / 4) c).2).1.suppressVbl = false)
  generalize p.dotStep mem (k / 4) c = r at *
  by_cases hr : r.1.atVblank
  · obtain ⟨h241, h0⟩ := hnext.mp hr
    obtain ⟨hn2, hs2⟩ := Ppu.dotStep_atVblank mem ((k + 4) / 4) hr r.2
    have hp : ¬ p.atVblank := fun hp => by have := hp.2; omega
    rw [hn2, hn1, hkept hp]
    exact ⟨by simp [h241, h0], fun _ => hs2, fun _ _ => hs2⟩
  · obtain ⟨hn2, hs2⟩ := Ppu.dotStep_vblank mem ((k + 4) / 4) hn1 hr r.2
    have h0 : ¬ (p.scanline = 241 ∧ p.dot = 0) := fun h0 => hr (hnext.mpr h0)
    rw [hn2, hn1, hs2]
    exact ⟨⟨fun e => (nomatch e), fun e => absurd ⟨e.1, e.2.1⟩ h0⟩, hspent, fun a b => absurd ⟨a, b⟩ h0⟩

/-! ### The access (R403) -/

/-- The window of the muted vertical blank in the two readings (log entry 27). -/
theorem Ppu.vblankWithin_muteDots (p : Ppu) (cfg : Config) : p.vblankWithin (muteDots cfg) =
    decide (p.scanline = 241 ∧ (p.dot = 1 ∨ (p.dot = 0 ∧ cfg.muteWindow = .secondHalf ∧ cfg.ppuOffset.val ≠ 1))) := by
  unfold muteDots
  split
  next hw =>
    rw [Ppu.vblankWithin_one]
    simp [hw]
  next hw =>
    split
    next hoff =>
      rw [Ppu.vblankWithin_one]
      simp [hoff]
    next hoff =>
      have hval : cfg.ppuOffset.val ≠ 1 := fun e => hoff (Fin.ext e)
      rw [Ppu.vblankWithin_two, decide_eq_decide]
      simp only [hw, hval, ne_eq, not_false_eq_true, and_true]
      omega

/-- The three flags of the status byte. -/
theorem statusFlags_bits : ∀ b7 b6 b5 : Bool, let x := bitAt 7 b7 ||| bitAt 6 b6 ||| bitAt 5 b5
    x.getLsbD 7 = b7 ∧ x.getLsbD 6 = b6 ∧ x.getLsbD 5 = b5 ∧ x &&& 0x1F = 0 := by decide

/-- The bits of the status byte. -/
theorem statusByte_bits (b7 b6 b5 : Bool) (l : Byte) : let v := bitAt 7 b7 ||| bitAt 6 b6 ||| bitAt 5 b5 ||| (l &&& 0x1F)
    v.getLsbD 7 = b7 ∧ v.getLsbD 6 = b6 ∧ v.getLsbD 5 = b5 ∧ v.toNat % 32 = l.toNat % 32 := by
  obtain ⟨h7, h6, h5, hlow⟩ := statusFlags_bits b7 b6 b5
  generalize bitAt 7 b7 ||| bitAt 6 b6 ||| bitAt 5 b5 = x at *
  have hv : (x ||| (l &&& 0x1F)) &&& 0x1F = l &&& 0x1F := by
    rw [BitVec.and_or_distrib_right, hlow, BitVec.and_assoc, BitVec.and_self]
    exact BitVec.zero_or
  have hmod : ∀ y : Byte, (y &&& 0x1F).toNat = y.toNat % 32 := fun y => toNat_lowField y 5 (by decide)
  refine ⟨?_, ?_, ?_, by rw [← hmod, hv, hmod]⟩
  · simpa using h7
  · simpa using h6
  · simpa using h5

/-- Settles O55: the flags at the access, then the one or two dots that follow it. -/
theorem statusPortRead : Obligations.StatusPortRead := by
  unfold Obligations.StatusPortRead
  intro a s hs hh h h' h2
  obtain ⟨t, now, he, hu, hc, hb, ht⟩ := ldaAbs_ppuReg hs hh h h'
  rw [h2] at hc hb
  have hclk : (busRead a (startTick .read s)).2.clk = (startTick .read s).clk := busRead_clk a _
  have hcfg : (busRead a (startTick .read s)).2.cfg = s.cfg :=
    ((readFrame_parts.startTick .read s).trans (readFrame_parts.access a _)).cfg
  have hlatch : (startTick .read s).ppu.ioLatch = s.ppu.ioLatch :=
    (advance_dotFrame 5 { s with clk := { s.clk with cyc := s.clk.cyc + 1 } }).ioLatch
  have hw : t.ppu.w = false := by
    rw [ht, (advance_dotFrame 7 (busRead a (startTick .read s)).2).w, hb]
    rfl
  have hcpu : t.cpu = { s.cpu with a := t.cpu.a, p := s.cpu.p.zn t.cpu.a } := by rw [hc]; rfl
  generalize (busRead a (startTick .read s)).2 = u at *
  generalize (startTick .read s).ppu = p at *
  have ha : t.cpu.a = (p.readStatus (muteDots s.cfg)).1 := congrArg Cpu.a hc
  have hq : u.ppu = { p with
        nmiOccurred := false, w := false, ioLatch := t.cpu.a, suppressVbl := p.suppressVbl || decide (p.scanline = 241 ∧
          (p.dot = 1 ∨ (p.dot = 0 ∧ s.cfg.muteWindow = .secondHalf ∧ s.cfg.ppuOffset.val ≠ 1))) } := by
    rw [← Ppu.vblankWithin_muteDots, ha]
    exact hb
  obtain ⟨h7, h6, h5, hlow⟩ := statusByte_bits p.nmiOccurred p.spriteZeroHit p.spriteOverflow p.ioLatch
  refine ⟨t, he, hw, ha ▸ h7, ha ▸ h6, ha ▸ h5, ha ▸ hlatch ▸ hlow, hcpu, hu, hq, fun hci h1 _ => ?_⟩
  have hn : u.ppu.nmiOccurred = false := by rw [hq]
  have hpos : u.ppu.scanline = p.scanline ∧ u.ppu.dot = p.dot := by rw [hq]; exact ⟨rfl, rfl⟩
  have hsup : u.ppu.suppressVbl = (p.suppressVbl || decide (p.scanline = 241 ∧
          (p.dot = 1 ∨ (p.dot = 0 ∧ s.cfg.muteWindow = .secondHalf ∧ s.cfg.ppuOffset.val ≠ 1)))) := by rw [hq]
  have hmute : u.ppu.atVblank → u.ppu.suppressVbl = true := by
    rintro ⟨hs241, hd1⟩
    rw [hpos.1] at hs241
    rw [hpos.2] at hd1
    simp [hsup, hs241, hd1]
  rw [ht, advance_after (hci hs) h1 hclk hcfg]
  by_cases hoff : s.cfg.ppuOffset.val = 1
  · obtain ⟨hclear, hspent, -⟩ := Ppu.dotStep_muted u.mem (u.clk.ppuClk / 4) hn hmute u.cart
    rw [if_pos hoff]
    exact ⟨⟨fun e => (nomatch hclear.symm.trans e), fun ⟨_, _, e, _⟩ => absurd hoff e⟩,
      fun h241 hd => ⟨hclear, hspent ⟨hpos.1.trans h241, hpos.2.trans hd⟩⟩, fun _ _ _ e => absurd hoff e⟩
  · obtain ⟨hset, hspent, hspent'⟩ := runDots_two_muted u.mem u.clk.ppuClk hn hmute u.cart
    rw [if_neg hoff]
    rw [hpos.1, hpos.2] at hset hspent'
    refine ⟨?_, fun h241 hd => ⟨?_, hspent ⟨hpos.1.trans h241, hpos.2.trans hd⟩⟩, fun hwin h241 hd _ => ⟨?_, hspent' h241 hd⟩⟩
    · rw [hset, hsup]
      cases hwin : s.cfg.muteWindow with
      | nextDot => simp +contextual [hoff]
      | secondHalf => simp +contextual [hoff]
    · exact Bool.eq_false_iff.mpr fun e => by have := (hset.mp e).2.1; omega
    · refine Bool.eq_false_iff.mpr fun e => ?_
      have := (hset.mp e).2.2
      rw [hsup] at this
      simp [h241, hd, hwin, hoff] at this

end Sys2Proof.Machine
end

section
/-! SUPPORT. The family of the encoding (spec file 30): the decoder and the encoder are inverse to each other (R130, R131, R134 to R137). -/

namespace Sys2Proof.Machine

/-! ### A word and its two bytes (R110) -/

@[simp] theorem lo_word (h l : Byte) : lo (word h l) = l := BitVec.extractLsb'_append_eq_right

@[simp] theorem hi_word (h l : Byte) : hi (word h l) = h := BitVec.extractLsb'_append_eq_left

@[simp] theorem word_hi_lo (a : Word) : word (hi a) (lo a) = a :=
  (BitVec.extractLsb'_append_extractLsb'_eq_extractLsb' rfl).trans BitVec.extractLsb'_eq_self

end Sys2Proof.Machine

namespace Sys2Proof

open Sys2Proof.Machine

/-! ### The number of operand bytes (R131) -/

theorem opLength_cases : ∀ op : Byte, opLength op = 1 ∨ opLength op = 2 ∨ opLength op = 3 := by decide

/-- The operand bytes of an opcode are none, one or two. -/
theorem operands_cases {op : Byte} {operands : List Byte} (h : opLength op = operands.length + 1) :
    operands = [] ∨ (∃ b1, operands = [b1]) ∨ ∃ b1 b2, operands = [b1, b2] := by
  rcases opLength_cases op with h1 | h2 | h3
  · exact .inl (List.length_eq_zero_iff.mp (by omega))
  · exact .inr (.inl (List.length_eq_one_iff.mp (by omega)))
  · exact .inr (.inr (List.length_eq_two.mp (by omega)))

/-! ### The opcode map, read in both directions (R134) -/

/-- The opcode map reads each instruction back from its bytes; an operand word is put together from its two bytes. -/
theorem decodeOp_encode (i : Instr) : ∃ op operands, encode i = op :: operands ∧ opLength op = operands.length + 1 ∧
    decodeOp op (operands.getD 0 0) (operands.getD 1 0) = i := by
  cases i <;> refine ⟨_, _, rfl, rfl, ?_⟩ <;> conv_lhs => whnf
  -- The map's entry computes to the instruction's constructor; what is left is its operand.
  all_goals simp only [List.getD_cons_zero, List.getD_cons_succ, word_hi_lo]

/-- The bytes of the instruction at each of the 256 places of the opcode map, an operand word still cut in two. -/
theorem encode_decodeOp_ofNat (b1 b2 : Byte) {n : Nat} (hn : n < 256) :
    encode (decodeOp (BitVec.ofNat 8 n) b1 b2) =
      if opLength (BitVec.ofNat 8 n) = 3 then [BitVec.ofNat 8 n, lo (word b2 b1), hi (word b2 b1)]
      else [BitVec.ofNat 8 n, b1].take (opLength (BitVec.ofNat 8 n)) := by
  interval_cases n <;> rfl

/-- The instruction at an opcode's place is encoded as the opcode and the operand bytes it was read with. -/
theorem encode_decodeOp {op : Byte} {operands : List Byte} (h : opLength op = operands.length + 1) :
    encode (decodeOp op (operands.getD 0 0) (operands.getD 1 0)) = op :: operands := by
  have hplace := encode_decodeOp_ofNat (operands.getD 0 0) (operands.getD 1 0) op.isLt
  rw [BitVec.ofNat_toNat, BitVec.setWidth_eq] at hplace
  rcases operands_cases h with rfl | ⟨b1, rfl⟩ | ⟨b1, b2, rfl⟩ <;> simpa [h] using hplace

/-! ### Decoding a string of bytes (R131, R136, R137) -/

theorem decode_append {op : Byte} {operands : List Byte} (h : opLength op = operands.length + 1) (rest : List Byte) :
    decode (op :: operands ++ rest) = .ok (decodeOp op (operands.getD 0 0) (operands.getD 1 0), rest) := by
  rcases operands_cases h with rfl | ⟨b1, rfl⟩ | ⟨b1, b2, rfl⟩ <;> simp [decode, h]

theorem decode_truncated {op : Byte} {tail : List Byte} (h : tail.length + 1 < opLength op) : decode (op :: tail) = .error (.truncated op) := by
  rcases opLength_cases op with h1 | h2 | h3
  · omega
  · have htail : tail = [] := List.length_eq_zero_iff.mp (by omega)
    simp [decode, h2, htail]
  · match tail with
    | [] | [_] => simp [decode, h3]
    | _ :: _ :: _ =>
      simp only [List.length_cons] at h
      omega

theorem decode_encode (i : Instr) (rest : List Byte) : decode (encode i ++ rest) = .ok (i, rest) := by
  obtain ⟨op, operands, hbytes, hlength, hmap⟩ := decodeOp_encode i
  rw [hbytes, decode_append hlength, hmap]

/-- What the decoder does with any string: it is empty, or shorter than its opcode's length, or the bytes of an instruction and a rest. -/
theorem decode_cases (bytes : List Byte) :
    (bytes = [] ∧ decode bytes = .error .noOpcode) ∨
    (∃ op tail, bytes = op :: tail ∧ bytes.length < opLength op ∧ decode bytes = .error (.truncated op)) ∨
    ∃ i rest, bytes = encode i ++ rest ∧ decode bytes = .ok (i, rest) := by
  match bytes with
  | [] => exact .inl ⟨rfl, rfl⟩
  | op :: tail =>
    by_cases hshort : tail.length + 1 < opLength op
    · exact .inr (.inl ⟨op, tail, rfl, hshort, decode_truncated hshort⟩)
    · have hlength : opLength op = (tail.take (opLength op - 1)).length + 1 := by
        have := opLength_cases op
        rw [List.length_take]
        omega
      have hbytes := congrArg (· ++ tail.drop (opLength op - 1)) (encode_decodeOp hlength).symm
      simp only [List.cons_append, List.take_append_drop] at hbytes
      exact .inr (.inr ⟨_, _, hbytes, hbytes ▸ decode_encode _ _⟩)

/-! ### The statements -/

/-- Settles O1: the opcode map reads the instruction back from its opcode and its operand bytes. -/
theorem decodeEncodeRoundTrip : Obligations.DecodeEncodeRoundTrip := by
  unfold Obligations.DecodeEncodeRoundTrip
  intro i rest _
  exact decode_encode i rest

/-- Settles O2: each clause is one of the decoder's three cases. -/
theorem encodeDecodeRoundTrip : Obligations.EncodeDecodeRoundTrip := by
  unfold Obligations.EncodeDecodeRoundTrip
  refine ⟨fun bytes rest i h => ?_, fun bytes h => ?_, fun bytes e h => ?_⟩ <;>
    rcases decode_cases bytes with ⟨hb, hd⟩ | ⟨op, tail, hb, hshort, hd⟩ | ⟨j, left, hb, hd⟩
  · simp [hd] at h
  · simp [hd] at h
  · obtain ⟨rfl, rfl⟩ : j = i ∧ left = rest := by simpa [hd] using h
    exact hb
  · simp [hb] at h
  · have := opLength_cases op
    omega
  · exact ⟨j, left, hd⟩
  · exact .inl ⟨hb, by simpa [hd] using h.symm⟩
  · exact .inr ⟨op, tail, hb, by simpa [hd] using h.symm, hshort⟩
  · simp [hd] at h

/-- Settles O3: each word is its instruction's encoding. -/
theorem decodeSpecWords : Obligations.DecodeSpecWords := by
  unfold Obligations.DecodeSpecWords
  exact ⟨rfl, rfl, rfl, rfl, rfl, rfl, rfl, rfl, rfl, rfl, rfl, rfl, rfl, rfl, rfl, rfl, rfl, rfl, rfl, rfl⟩

end Sys2Proof
end

section
/-! SUPPORT. Stores and the stack (spec files 40, 41, 45: R173, R175, R193 to R195, R280 to R283, R303). -/

namespace Sys2Proof.Machine

/-! ### Stores (R175, R193 to R195, R303) -/

theorem exec_staForms (z : Byte) (a : Word) (s : State) : ∀ f ∈ staForms z a, exec f.1 s = .next (store s.cpu.a f.2 s) := by
  simp only [staForms, List.forall_mem_cons]
  exact ⟨rfl, rfl, rfl, rfl, rfl, rfl, rfl, List.forall_mem_nil _⟩

theorem exec_stxForms (z : Byte) (a : Word) (s : State) : ∀ f ∈ stxForms z a, exec f.1 s = .next (store s.cpu.x f.2 s) := by
  simp only [stxForms, List.forall_mem_cons]
  exact ⟨rfl, rfl, rfl, List.forall_mem_nil _⟩

theorem exec_styForms (z : Byte) (a : Word) (s : State) : ∀ f ∈ styForms z a, exec f.1 s = .next (store s.cpu.y f.2 s) := by
  simp only [styForms, List.forall_mem_cons]
  exact ⟨rfl, rfl, rfl, List.forall_mem_nil _⟩

theorem exec_saxForms (z : Byte) (a : Word) (s : State) :
    ∀ f ∈ saxForms z a, exec f.1 s = .next (store (s.cpu.a &&& s.cpu.x) f.2 s) := by
  simp only [saxForms, List.forall_mem_cons]
  exact ⟨rfl, rfl, rfl, rfl, List.forall_mem_nil _⟩

/-- Settles O31: every form is the store template with its register, and its opcode is read off the encoding. -/
theorem stores : Obligations.Stores := by
  intro z a s
  exact ⟨fun f hf => store_effect (exec_staForms z a s f hf), fun f hf => store_effect (exec_stxForms z a s f hf),
    fun f hf => store_effect (exec_styForms z a s f hf), fun f hf => store_effect (exec_saxForms z a s f hf), rfl, rfl, rfl, rfl⟩

/-! ### Pushes and pulls (R173, R280 to R283) -/

theorem dummyPc_untouched (s : State) : Untouched s (dummyPc s) := (dummyRead_frame _ s).toUntouched

theorem exec_pha (s : State) : exec .pha s = .next (push s.cpu.a (dummyPc s)) := by
  show Host.Outcome.next (push (dummyPc s).cpu.a (dummyPc s)) = _
  rw [dummyPc_cpu]

theorem exec_php (s : State) : exec .php s = .next (push (s.cpu.p.toByte true) (dummyPc s)) := by
  show Host.Outcome.next (push ((dummyPc s).cpu.p.toByte true) (dummyPc s)) = _
  rw [dummyPc_cpu]

/-- Settles O40: each is the implied cycle, which leaves everything alone, and then the push of its byte. -/
theorem pushes : Obligations.Pushes := by
  intro s f hf
  have he : exec f.1 s = .next (push f.2 (dummyPc s)) := by
    simp only [List.mem_cons, List.not_mem_nil, or_false] at hf
    rcases hf with rfl | rfl
    · exact exec_pha s
    · exact exec_php s
  refine ⟨_, he, (RestUntouched.of_untouched (dummyPc_untouched s)).trans (push_rest _ _), ?_, fun hfault => ?_⟩
  · rw [push_cpu, dummyPc_cpu]
  · rw [push_mem (by rw [dummyPc_fault, hfault]), dummyPc_mem, dummyPc_cpu]

/-- The pull of `PLA` and `PLP`, after their two dummy reads (R282, R283). -/
def pulled (s : State) : Byte × State := pull (dummyStack (dummyPc s))

theorem exec_pla (s : State) : exec .pla s = .next ((pulled s).2.setCpu ((pulled s).2.cpu.lda (pulled s).1)) := rfl

theorem exec_plp (s : State) : exec .plp s = .next ((pulled s).2.setP (Flags.ofByte (pulled s).1)) := rfl

theorem pulled_untouched (s : State) : Untouched s (pulled s).2 :=
  ((dummyPc_untouched s).trans (dummyRead_frame _ _).toUntouched).trans (pull_untouched _)

theorem pulled_cpu (s : State) : (pulled s).2.cpu = { s.cpu with sp := s.cpu.sp + 1 } := by
  unfold pulled
  rw [pull_cpu, dummyStack_cpu, dummyPc_cpu]

theorem pulled_value {s : State} (hf : s.fault = none) : (pulled s).1 = s.mem.ram.read (256 + (s.cpu.sp + 1).toNat) := by
  unfold pulled
  rw [pull_value (by rw [dummyStack_fault, dummyPc_fault, hf]), dummyStack_mem, dummyPc_mem, dummyStack_cpu, dummyPc_cpu]

/-- Settles O41: the byte pulled goes to `A`, or its six stored bits to `P`; the reads before it leave everything alone. -/
theorem pulls : Obligations.Pulls := by
  intro s
  refine ⟨⟨_, exec_pla s, (pulled_untouched s).trans (State.setCpu_untouched _ _), ?_, fun hf => ?_⟩,
    ⟨_, exec_plp s, (pulled_untouched s).trans (State.setCpu_untouched _ _), ?_, fun hf => ?_⟩⟩
  · rw [State.setCpu_cpu, pulled_cpu]
    rfl
  · exact pulled_value hf
  · rw [State.setP, State.setCpu_cpu, pulled_cpu]
  · rw [State.setP_p, Flags.toByte_ofByte, pulled_value hf]

end Sys2Proof.Machine
end

section
/-! SUPPORT. The fetch of an instruction from plain memory, and the step around it (R160, R162 to R165, R262). -/

namespace Sys2Proof.Machine

/-! ### The number of bytes a fetch reads (R131, R160, R262) -/

theorem encode_decodeOp_headD (op b1 b2 : Byte) : (encode (decodeOp op b1 b2)).headD 0 = op := by
  have hplace := encode_decodeOp_ofNat b1 b2 op.isLt
  rw [BitVec.ofNat_toNat, BitVec.setWidth_eq] at hplace
  rw [hplace]
  rcases opLength_cases op with h | h | h <;> simp [h]

theorem fetchLength_decodeOp (op b1 b2 : Byte) : Instr.fetchLength (decodeOp op b1 b2) = fetchLength op := by
  unfold Instr.fetchLength
  rw [encode_decodeOp_headD]

theorem fetchLength_cases (op : Byte) : fetchLength op = 1 ∨ fetchLength op = 2 ∨ fetchLength op = 3 := by
  unfold fetchLength
  split
  · exact .inr (.inl rfl)
  · exact opLength_cases op

/-- The instruction a fetch answers: the high operand byte of a `JSR` is looked at, every other operand byte is read. -/
theorem fetchInstr_fst (s : State) : (fetchInstr s).1 =
    decodeOp (fetchByte s).1 (fetchOperands (fetchLength (fetchByte s).1) (fetchByte s).2).1
      (if (fetchByte s).1 = 0x20 then peekCpu (fetchInstr s).2.cpu.pc (fetchInstr s).2
       else (fetchOperands (fetchLength (fetchByte s).1) (fetchByte s).2).2.1) := rfl

theorem fetchInstr_fetchLength (s : State) : Instr.fetchLength (fetchInstr s).1 = fetchLength (fetchByte s).1 :=
  fetchLength_decodeOp _ _ _

/-! ### Bytes fetched from plain memory -/

/-- A read of plain memory finds the stored byte, whatever stands in front of it. -/
theorem busAnswer_plain {a : Word} {s : State} {v : Byte} (h : s.plainByte a = some v) : (busAnswer a s).1 = v := by
  unfold State.plainByte at h
  unfold busAnswer
  split at h
  · rw [if_pos ‹_›]
    exact Option.some.inj h
  split at h
  · cases h
  · rw [if_neg ‹_›, if_neg (by omega), if_neg (by omega), if_neg (by omega), if_neg (by omega), if_neg ‹_›]
    unfold readCartridge
    rw [h]

/-- `u` is `s` with `n` bytes fetched. -/
structure Fetched (s : State) (n : Nat) (u : State) : Prop where
  cpu : u.cpu = { s.cpu with pc := s.cpu.pc + BitVec.ofNat 16 n }
  untouched : Untouched s u

theorem Fetched.zero (s : State) : Fetched s 0 s := ⟨by simp, .refl s⟩

theorem Fetched.pc {s u : State} {n : Nat} (h : Fetched s n u) : u.cpu.pc = s.cpu.pc + BitVec.ofNat 16 n := by rw [h.cpu]

theorem Fetched.fault {s u : State} {n : Nat} (h : Fetched s n u) : u.fault = s.fault := h.untouched.fault

theorem Fetched.next {s u : State} {n : Nat} (h : Fetched s n u) : Fetched s (n + 1) (fetchByte u).2 := by
  have hpc : s.cpu.pc + BitVec.ofNat 16 n + 1 = s.cpu.pc + BitVec.ofNat 16 (n + 1) := by bv_omega
  refine ⟨?_, h.untouched.trans ((memRead_frame _ u).toUntouched.trans (State.setCpu_untouched _ _))⟩
  show { (memRead u.cpu.pc u).2.cpu with pc := (memRead u.cpu.pc u).2.cpu.pc + 1 } = _
  rw [memRead_cpu, h.cpu, hpc]

/-- The bytes `bytes` lie in plain memory from `PC` on. -/
def State.holds (s : State) (bytes : List Byte) : Prop :=
  ∀ (k : Nat) (b : Byte), bytes[k]? = some b → s.plainByte (s.cpu.pc + BitVec.ofNat 16 k) = some b

/-- The next byte of the fetch is the stored one. -/
theorem Fetched.byte {s u : State} {n : Nat} (h : Fetched s n u) (hf : s.fault = none) {bytes : List Byte} (hb : s.holds bytes) {b : Byte}
    (hn : bytes[n]? = some b) : (fetchByte u).1 = b := by
  refine memRead_plain (h.fault.trans hf) ?_
  rw [State.plainByte_congr h.untouched, h.pc]
  exact hb n b hn

/-- The byte after those fetched, looked at and not read, is the stored one. -/
theorem Fetched.peek {s u : State} {n : Nat} (h : Fetched s n u) {bytes : List Byte} (hb : s.holds bytes) {b : Byte}
    (hn : bytes[n]? = some b) : peekCpu u.cpu.pc u = b := by
  refine busAnswer_plain ?_
  rw [State.plainByte_congr h.untouched, h.pc]
  exact hb n b hn

/-- A fetch moves `PC` past its bytes and leaves the rest alone. -/
theorem fetchInstr_fetched (s : State) : Fetched s (fetchLength (fetchByte s).1) (fetchInstr s).2 := by
  have h1 := (Fetched.zero s).next
  show Fetched s _ (fetchOperands (fetchLength (fetchByte s).1) (fetchByte s).2).2.2
  rcases fetchLength_cases (fetchByte s).1 with h | h | h <;> rw [h]
  · exact h1
  · exact h1.next
  · exact h1.next.next

/-- A fetch of the bytes of `i` from plain memory answers `i`. -/
theorem fetchInstr_of_holds {s : State} {i : Instr} (hf : s.fault = none) (hb : s.holds (encode i)) : (fetchInstr s).1 = i := by
  obtain ⟨op, operands, hbytes, hlength, hmap⟩ := decodeOp_encode i
  rw [hbytes] at hb
  have h0 := Fetched.zero s
  have hop : (fetchByte s).1 = op := h0.byte hf hb rfl
  have hfetched := fetchInstr_fetched s
  rw [fetchInstr_fst, hop, ← hmap]
  rw [hop] at hfetched
  by_cases hjsr : op = 0x20
  · subst hjsr
    obtain ⟨b1, b2, rfl⟩ : ∃ b1 b2, operands = [b1, b2] := List.length_eq_two.mp (Nat.succ.inj hlength).symm
    have hn : fetchLength 0x20 = 2 := rfl
    rw [if_pos rfl, hfetched.peek hb rfl, hn]
    show decodeOp _ (fetchByte _).1 _ = _
    rw [h0.next.byte hf hb rfl]
    rfl
  · have hn : fetchLength op = operands.length + 1 := by rw [fetchLength, if_neg hjsr, hlength]
    rw [if_neg hjsr, hn]
    rcases operands_cases hlength with rfl | ⟨b1, rfl⟩ | ⟨b1, b2, rfl⟩
    · rfl
    · show decodeOp _ (fetchByte _).1 _ = _
      rw [h0.next.byte hf hb rfl]
      rfl
    · show decodeOp _ (fetchByte _).1 (fetchByte (fetchByte _).2).1 = _
      rw [h0.next.byte hf hb rfl, h0.next.next.byte hf hb rfl]
      rfl

/-! ### The step around an instruction (R160, R341) -/

theorem retire_eq (t : State) :
    retire t = if t.fault = none ∧ (t.int.nmi.active = true ∨ t.int.irq.active = true) then interruptSequence t else t := by
  unfold retire
  cases t.fault <;> simp

/-- The step whose instruction ends in `t`. -/
theorem step_of_exec {s t : State} (hf : s.fault = none) (he : exec (fetchInstr s).1 (fetchInstr s).2 = .next t) :
    step s = .next (retire t) := by
  rw [step_eq hf, he]
  rfl

/-- Settles O4: the fetch reads the stored bytes one by one, every instruction answers a next state, and the interrupt check follows. -/
theorem stepRunsDecodedInstruction : Obligations.StepRunsDecodedInstruction := by
  intro s bytes i hf hd hb
  obtain rfl : bytes = encode i := by simpa using encodeDecodeRoundTrip.1 bytes [] i hd
  have hi : (fetchInstr s).1 = i := fetchInstr_of_holds hf hb
  have hfetched := fetchInstr_fetched s
  rw [← fetchInstr_fetchLength, hi] at hfetched
  obtain ⟨t, ht, -⟩ := exec_pointers i (fetchInstr s).2
  refine ⟨_, by rw [← hi], hfetched.cpu, hfetched.untouched, t, ht, ?_⟩
  rw [step_of_exec hf (hi.symm ▸ ht), retire_eq]

end Sys2Proof.Machine
end

section
/-! SUPPORT. How many cycles an instruction takes (R166, R169, R178, R264, R580). -/

namespace Sys2Proof.Machine

/-! ### Cycles gone by, while no transfer is about -/

/-- `t` is `n` cycles after `s`, on a legal cartridge and without a fault. -/
structure After (s : State) (n : Nat) (t : State) : Prop where
  ok : t.CartInv ∧ t.fault = none
  cyc : t.clk.cyc = s.clk.cyc + n

/-- `t` is `n` cycles after `s`, and no transfer is about. -/
structure QuietAfter (s : State) (n : Nat) (t : State) : Prop extends After s n t where
  quiet : t.quiet

theorem QuietAfter.zero {s : State} (hf : s.fault = none) (hi : s.CartInv) (hq : s.quiet) : QuietAfter s 0 s := ⟨⟨⟨hi, hf⟩, rfl⟩, hq⟩

section
variable {s t : State} {n : Nat}

theorem After.setCpu (h : After s n t) (c : Cpu) : After s n (t.setCpu c) := ⟨h.ok, h.cyc⟩

theorem After.drawn (h : After s n t) : After s n t.drawn := ⟨h.ok, h.cyc⟩

/-- A write takes one cycle, but it may request a transfer. -/
theorem After.write (h : After s n t) (a : Word) (v : Byte) : After s (n + 1) (memWrite a v t) :=
  ⟨noFault_keeps.write h.ok a v, by rw [memWrite_cyc h.ok.2 h.ok.1, h.cyc, Nat.add_assoc]⟩

theorem QuietAfter.setCpu (h : QuietAfter s n t) (c : Cpu) : QuietAfter s n (t.setCpu c) := ⟨h.toAfter.setCpu c, h.quiet⟩

theorem QuietAfter.read (h : QuietAfter s n t) (a : Word) : QuietAfter s (n + 1) (memRead a t).2 := by
  obtain ⟨hcyc, hquiet⟩ := memRead_quiet h.ok.2 h.quiet a
  exact ⟨⟨noFault_keeps.read h.ok a, by rw [hcyc, h.cyc, Nat.add_assoc]⟩, hquiet⟩

theorem QuietAfter.push (h : QuietAfter s n t) (v : Byte) : QuietAfter s (n + 1) (push v t) :=
  QuietAfter.setCpu ⟨h.write _ v, memWrite_quiet h.quiet (by rw [stackAddr_toNat]; omega) v⟩ _

theorem QuietAfter.pull (h : QuietAfter s n t) : QuietAfter s (n + 1) (pull t).2 := (h.setCpu _).read _

theorem QuietAfter.selectVector (h : QuietAfter s n t) : QuietAfter s n (selectVector t).2 := by
  unfold Machine.selectVector
  split
  · exact ⟨⟨h.ok, h.cyc⟩, h.quiet⟩
  · exact h

theorem QuietAfter.loadPc (h : QuietAfter s n t) (vec : Word) : QuietAfter s (n + 2) (loadPc vec t) := ((h.read _).read _).setCpu _

/-- An exception entry: three pushes and the two bytes of the vector. -/
theorem QuietAfter.takeException (h : QuietAfter s n t) (b : Bool) : QuietAfter s (n + 5) (takeException b t) :=
  ((((h.push _).push _).selectVector.push _).setCpu _).loadPc _

theorem QuietAfter.returnFromException (h : QuietAfter s n t) : QuietAfter s (n + 5) (returnFromException t) :=
  (((((h.read _).read _).pull.setCpu _).pull).pull).setCpu _

/-! ### The addressing modes (R163 to R170) -/

theorem QuietAfter.zpPointer (h : QuietAfter s n t) (p : Byte) : QuietAfter s (n + 2) (zpPointer p t).2 := (h.read _).read _

theorem QuietAfter.addrIzx (h : QuietAfter s n t) (z : Byte) : QuietAfter s (n + 3) (addrIzx z t).2 := (h.read _).zpPointer _

theorem QuietAfter.indexRead (h : QuietAfter s n t) (base : Word) (r : Byte) :
    QuietAfter s (n + if crosses base r then 1 else 0) (indexRead base r t).2 := by
  unfold Machine.indexRead
  dsimp only
  split
  · exact h.read _
  · exact h

end

/-- The cycles that form the address of a read operand, a page crossing not counted. -/
def readAddressCycles : MemMode → Nat
  | .zp _ | .abs _ | .abx _ | .aby _ => 0
  | .zpx _ | .zpy _ => 1
  | .izx _ => 3
  | .izy _ => 2

/-- The cycles that form the address of a store. -/
def storeAddressCycles : MemMode → Nat
  | .zp _ | .abs _ => 0
  | .zpx _ | .zpy _ | .abx _ | .aby _ => 1
  | .izx _ | .izy _ => 3

section
variable {s t : State} {n : Nat}

theorem QuietAfter.readAddress (h : QuietAfter s n t) (m : MemMode) :
    QuietAfter s (n + readAddressCycles m + t.crossExtra m) (readAddress m t).2 := by
  cases m with
  | zp z | abs a => exact h
  | zpx z | zpy z => exact h.read _
  | abx a | aby a => exact h.indexRead a _
  | izx z => exact h.addrIzx z
  | izy z =>
    have hcross : (if crosses (Machine.zpPointer z t).1 (Machine.zpPointer z t).2.cpu.y then 1 else 0) = t.crossExtra (.izy z) := by
      rw [zpPointer_value h.ok.2, (zpPointer_frame z t).cpu]
      rfl
    rw [← hcross]
    exact (h.zpPointer z).indexRead _ _

theorem QuietAfter.storeAddress (h : QuietAfter s n t) (m : MemMode) : QuietAfter s (n + storeAddressCycles m) (storeAddress m t).2 := by
  cases m with
  | zp z | abs a => exact h
  | zpx z | zpy z | abx a | aby a => exact h.read _
  | izx z => exact h.addrIzx z
  | izy z => exact (h.zpPointer z).read _

/-! ### The templates (R161, R174 to R176, R264, R318) -/

theorem QuietAfter.readInstr (h : QuietAfter s n t) (f : Byte → Cpu → Cpu) (m : MemMode) :
    After s (n + readAddressCycles m + t.crossExtra m + 1) (readInstr f (.mem m) t) := (((h.readAddress m).read _).setCpu _).toAfter

theorem QuietAfter.store (h : QuietAfter s n t) (v : Byte) (m : MemMode) : After s (n + storeAddressCycles m + 1) (store v m t) :=
  (h.storeAddress m).write _ v

theorem QuietAfter.rmwInstr (h : QuietAfter s n t) (f : Byte → Flags → Byte × Flags) (g : Byte → Cpu → Cpu) (m : MemMode) :
    After s (n + storeAddressCycles m + 3) (rmwInstr f g m t) := by
  have hw := fun old new => (((h.storeAddress m).read (Machine.storeAddress m t).1).write (Machine.storeAddress m t).1 old).write
    (Machine.storeAddress m t).1 new
  unfold Machine.rmwInstr
  dsimp only
  split
  · exact hw _ _
  · exact (hw _ _).setCpu _

theorem QuietAfter.impliedInstr (h : QuietAfter s n t) (f : Cpu → Cpu) : After s (n + 1) (impliedInstr f t) := ((h.read _).setCpu _).toAfter

theorem QuietAfter.branchInstr (h : QuietAfter s n t) (taken : Bool) (d : Byte) :
    After s (n + branchExtra taken t.cpu.pc d) (branchInstr taken d t) := by
  unfold Machine.branchInstr branchExtra
  cases taken with
  | false => exact h.toAfter
  | true =>
    rw [if_pos rfl, if_pos rfl]
    unfold takeBranch
    dsimp only
    split
    · exact (((h.read _).read _).setCpu _).toAfter
    · exact ((h.read _).setCpu _).toAfter

theorem QuietAfter.storeUnstable (h : QuietAfter s n t) (reg : Byte) (base : Word) (idx : Byte) :
    After s (n + 2) (storeUnstable reg base idx t) := (h.read _).drawn.write _ _

end

/-! ### The table (R178) -/

/-- `i`, executed in `s` after its fetch, answers a next state, and takes with its fetch the cycles of the table. -/
def OnTime (i : Instr) (s : State) : Prop :=
  ∃ t, exec i s = .next t ∧ t.clk.cyc + Instr.fetchLength i = s.clk.cyc + Instr.cycles i s

section
variable {s : State} {i : Instr} {op : Byte} {operands : List Byte}

theorem After.onTime {n : Nat} {t : State} (h : After s n t) (he : exec i s = .next t) (hb : encode i = op :: operands)
    (hn : Instr.cycles i s = fetchLength op + n) : OnTime i s := by
  have hlength : Instr.fetchLength i = fetchLength op := by rw [Instr.fetchLength, hb, List.headD_cons]
  exact ⟨t, he, by rw [h.cyc, hlength, hn]; omega⟩

/-- A read instruction: the cycles of its address, one more for a page crossing, and the read. -/
theorem QuietAfter.onTime_read (h : QuietAfter s 0 s) {f : Byte → Cpu → Cpu} {m : MemMode} (he : exec i s = .next (Machine.readInstr f (.mem m) s))
    (hb : encode i = op :: operands)
    (hn : Instr.cycles i s = fetchLength op + readAddressCycles m + 1 + s.crossExtra m) : OnTime i s :=
  (h.readInstr f m).onTime he hb (by omega)

theorem QuietAfter.onTime_store (h : QuietAfter s 0 s) {v : Byte} {m : MemMode} (he : exec i s = .next (Machine.store v m s))
    (hb : encode i = op :: operands)
    (hn : Instr.cycles i s = fetchLength op + storeAddressCycles m + 1) : OnTime i s :=
  (h.store v m).onTime he hb (by omega)

theorem QuietAfter.onTime_rmw (h : QuietAfter s 0 s) {f : Byte → Flags → Byte × Flags} {g : Byte → Cpu → Cpu} {m : MemMode}
    (he : exec i s = .next (Machine.rmwInstr f g m s)) (hb : encode i = op :: operands)
    (hn : Instr.cycles i s = fetchLength op + storeAddressCycles m + 3) : OnTime i s :=
  (h.rmwInstr f g m).onTime he hb (by omega)

theorem QuietAfter.onTime_implied (h : QuietAfter s 0 s) {f : Cpu → Cpu} (he : exec i s = .next (Machine.impliedInstr f s))
    (hb : encode i = op :: operands)
    (hn : Instr.cycles i s = fetchLength op + 1) : OnTime i s := (h.impliedInstr f).onTime he hb hn

theorem QuietAfter.onTime_branch (h : QuietAfter s 0 s) {taken : Bool} {d : Byte} (he : exec i s = .next (Machine.branchInstr taken d s))
    (hb : encode i = op :: operands)
    (hn : Instr.cycles i s = fetchLength op + branchExtra taken s.cpu.pc d) : OnTime i s :=
  (h.branchInstr taken d).onTime he hb (by omega)

/-- Every instruction: the template or the chain of accesses that gives it its meaning, its first byte, and its row of the table. -/
theorem exec_onTime (i : Instr) (h : QuietAfter s 0 s) : OnTime i s := by
  cases i with
  -- jumps, calls, exceptions, the stack
  | jmpAbs a => exact (h.setCpu _).onTime rfl rfl rfl
  | jmpInd a => exact (((h.read _).read _).setCpu _).onTime rfl rfl rfl
  | jsr a => exact (((((h.read _).push _).push _).read _).setCpu _).onTime rfl rfl rfl
  | rts => exact ((((((h.read _).read _).pull.pull).setCpu _).read _).setCpu _).onTime rfl rfl rfl
  | rti => exact h.returnFromException.onTime rfl rfl rfl
  | brk => exact (((h.read _).setCpu _).takeException true).onTime rfl rfl rfl
  | pha | php => exact ((h.read _).push _).onTime rfl rfl rfl
  | pla | plp => exact (((h.read _).read _).pull.setCpu _).onTime rfl rfl rfl
  | bcc | bcs | beq | bne | bmi | bpl | bvc | bvs => exact h.onTime_branch rfl rfl rfl
  -- unstable and undispatchable opcodes
  | shaIzy z => exact ((h.zpPointer z).storeUnstable _ _ _).onTime rfl rfl rfl
  | shaAby | shxAby | shyAbx => exact (h.storeUnstable _ _ _).onTime rfl rfl rfl
  | tasAby => exact ((h.setCpu _).storeUnstable _ _ _).onTime rfl rfl rfl
  | lxaImm | xaaImm => exact (h.setCpu _).drawn.onTime rfl rfl rfl
  | jam02 | jam12 | jam22 | jam32 | jam42 | jam52 | jam62 | jam72 | jam92 | jamB2 | jamD2 | jamF2 => exact ⟨_, rfl, rfl⟩
  -- the templates
  | staIzx | staZp | staAbs | staIzy | staZpx | staAby | staAbx | stxZp | stxAbs | stxZpy | styZp | styAbs | styZpx
  | saxIzx | saxZp | saxAbs | saxZpy => exact h.onTime_store rfl rfl rfl
  | tax | tay | txa | tya | tsx | txs | inx | iny | dex | dey | aslAcc | lsrAcc | rolAcc | rorAcc | clc | sec | cli | sei | cld | sed | clv
  | nop | nopImp1A | nopImp3A | nopImp5A | nopImp7A | nopImpDA | nopImpFA => exact h.onTime_implied rfl rfl rfl
  | aslZp | aslAbs | aslZpx | aslAbx | lsrZp | lsrAbs | lsrZpx | lsrAbx | rolZp | rolAbs | rolZpx | rolAbx
  | rorZp | rorAbs | rorZpx | rorAbx | incZp | incAbs | incZpx | incAbx | decZp | decAbs | decZpx | decAbx
  | dcpIzx | dcpZp | dcpAbs | dcpIzy | dcpZpx | dcpAby | dcpAbx | isbIzx | isbZp | isbAbs | isbIzy | isbZpx | isbAby | isbAbx
  | sloIzx | sloZp | sloAbs | sloIzy | sloZpx | sloAby | sloAbx | rlaIzx | rlaZp | rlaAbs | rlaIzy | rlaZpx | rlaAby | rlaAbx
  | sreIzx | sreZp | sreAbs | sreIzy | sreZpx | sreAby | sreAbx | rraIzx | rraZp | rraAbs | rraIzy | rraZpx | rraAby | rraAbx =>
    exact h.onTime_rmw rfl rfl rfl
  | ldaImm | ldxImm | ldyImm | adcImm | sbcImm | sbcImmEB | andImm | oraImm | eorImm | cmpImm | cpxImm | cpyImm
  | ancImm0B | ancImm2B | alrImm | arrImm | axsImm | nopImm80 | nopImm82 | nopImm89 | nopImmC2 | nopImmE2 => exact (h.setCpu _).onTime rfl rfl rfl
  | _ => exact h.onTime_read rfl rfl rfl

end

/-! ### The fetch, the step and the interrupt sequence (R160, R352) -/

theorem QuietAfter.fetchByte {s t : State} {n : Nat} (h : QuietAfter s n t) : QuietAfter s (n + 1) (fetchByte t).2 := (h.read _).setCpu _

/-- A fetch takes a cycle for each byte it reads. -/
theorem QuietAfter.fetchInstr {s : State} (h : QuietAfter s 0 s) : QuietAfter s (Instr.fetchLength (fetchInstr s).1) (fetchInstr s).2 := by
  rw [fetchInstr_fetchLength]
  show QuietAfter s _ (fetchOperands (fetchLength (Machine.fetchByte s).1) (Machine.fetchByte s).2).2.2
  rcases fetchLength_cases (Machine.fetchByte s).1 with hn | hn | hn <;> rw [hn]
  · exact h.fetchByte
  · exact h.fetchByte.fetchByte
  · exact h.fetchByte.fetchByte.fetchByte

/-- Settles O19: while no transfer is about every access is one cycle, so the accesses of each instruction are counted;
the interrupt sequence is two reads and an exception entry. -/
theorem cycleTable : Obligations.CycleTable := by
  refine ⟨fun i s hf hi hq => exec_onTime i (.zero hf hi hq), fun s hf hi hq => ?_, fun s hf hi hq => ?_⟩
  · have hfetch := QuietAfter.fetchInstr (.zero hf hi hq)
    obtain ⟨t, ht, hcyc⟩ := exec_onTime (fetchInstr s).1 (.zero hfetch.ok.2 hfetch.ok.1 hfetch.quiet)
    refine ⟨t, ht, ?_, fun hnmi hirq => ?_⟩
    · rw [hfetch.cyc] at hcyc
      omega
    · rw [step_of_exec hf ht, retire_eq]
      simp [hnmi, hirq]
  · exact ((((QuietAfter.zero hf hi hq).read _).read _).takeException false).cyc

end Sys2Proof.Machine
end

section
/-! SUPPORT. Loads and register transfers (spec file 41: R177, R190 to R192, R196 to R201). -/

namespace Sys2Proof.Machine

/-! ### A register loaded, `Z` and `N` set from it (R177) -/

theorem Cpu.lda_eq (v : Byte) (c : Cpu) : c.lda v = { c with a := v, p := c.p.zn v } := rfl

theorem Cpu.ldx_eq (v : Byte) (c : Cpu) : c.ldx v = { c with x := v, p := c.p.zn v } := rfl

theorem Cpu.ldy_eq (v : Byte) (c : Cpu) : c.ldy v = { c with y := v, p := c.p.zn v } := rfl

/-! ### Loads (R174, R190 to R192) -/

theorem exec_ldaForms (v z : Byte) (a : Word) (s : State) : ∀ f ∈ ldaForms v z a, exec f.1 s = .next (readInstr Cpu.lda f.2 s) := by
  simp only [ldaForms, List.forall_mem_cons]
  exact ⟨rfl, rfl, rfl, rfl, rfl, rfl, rfl, rfl, List.forall_mem_nil _⟩

theorem exec_ldxForms (v z : Byte) (a : Word) (s : State) : ∀ f ∈ ldxForms v z a, exec f.1 s = .next (readInstr Cpu.ldx f.2 s) := by
  simp only [ldxForms, List.forall_mem_cons]
  exact ⟨rfl, rfl, rfl, rfl, rfl, List.forall_mem_nil _⟩

theorem exec_ldyForms (v z : Byte) (a : Word) (s : State) : ∀ f ∈ ldyForms v z a, exec f.1 s = .next (readInstr Cpu.ldy f.2 s) := by
  simp only [ldyForms, List.forall_mem_cons]
  exact ⟨rfl, rfl, rfl, rfl, rfl, List.forall_mem_nil _⟩

/-- Settles O20: every form is the read template with its register's load, and its opcode is read off the encoding. -/
theorem loads : Obligations.Loads := by
  intro v z a s
  exact ⟨fun f hf => readInstr_effect (exec_ldaForms v z a s f hf) Cpu.lda_eq,
    fun f hf => readInstr_effect (exec_ldxForms v z a s f hf) Cpu.ldx_eq,
    fun f hf => readInstr_effect (exec_ldyForms v z a s f hf) Cpu.ldy_eq, rfl, rfl, rfl⟩

/-! ### Register transfers (R161, R196 to R201) -/

/-- Settles O27: each is the implied template; all but `TXS` load the target register with the source, which sets `Z` and `N`. -/
theorem registerTransfers : Obligations.RegisterTransfers := by
  intro s
  refine ⟨?tax, ?tay, ?txa, ?tya, ?tsx, ?txs, rfl⟩
  case tax => exact impliedInstr_effect rfl fun c => c.ldx_eq c.a
  case tay => exact impliedInstr_effect rfl fun c => c.ldy_eq c.a
  case txa => exact impliedInstr_effect rfl fun c => c.lda_eq c.x
  case tya => exact impliedInstr_effect rfl fun c => c.lda_eq c.y
  case tsx => exact impliedInstr_effect rfl fun c => c.ldx_eq c.sp
  case txs => exact impliedInstr_effect rfl fun _ => rfl

end Sys2Proof.Machine
end

section
/-! SUPPORT. Arithmetic, logic, comparisons and register steps (spec file 42: R220 to R228, R231 to R234; R304). -/

namespace Sys2Proof.Machine

/-! ### Addition with carry over the integers (R220) -/

/-- Bit 7 of a byte, taken with the mask `$80`, is its sign. -/
theorem and_0x80_ne_zero_iff (x : Byte) : x &&& 0x80 ≠ 0 ↔ x.msb = true := by
  rw [show (0x80 : Byte) = BitVec.twoPow 8 7 from rfl, BitVec.and_twoPow, BitVec.msb_eq_getLsbD_last]
  cases x.getLsbD 7 <;> decide

/-- The sum has overflowed exactly if the operands have one sign and the result has the other. -/
theorem msb_carrySum_iff_signed_overflow (a m : Byte) (c : Bool) :
    (a.msb = m.msb ∧ a.msb ≠ (BitVec.ofNat 8 (carrySum a m c)).msb) ↔
      a.toInt + m.toInt + (c.toNat : Int) < -128 ∨ 127 < a.toInt + m.toInt + (c.toNat : Int) := by
  have ha := a.isLt
  have hm := m.isLt
  have hc := Bool.toNat_le c
  simp only [carrySum, BitVec.msb_eq_decide, BitVec.toInt_eq_toNat_cond, BitVec.toNat_ofNat, ne_eq, decide_eq_decide]
  omega

/-- The `V` that `ADC` computes bit by bit is the signed overflow. -/
theorem adcOverflow_iff (a m : Byte) (p : Flags) :
    ~~~(a ^^^ m) &&& (a ^^^ adcValue a m p) &&& 0x80 ≠ 0 ↔
      a.toInt + m.toInt + (p.c.toNat : Int) < -128 ∨ 127 < a.toInt + m.toInt + (p.c.toNat : Int) := by
  rw [and_0x80_ne_zero_iff, ← msb_carrySum_iff_signed_overflow]
  simp [adcValue]

theorem adcValue_eq_zero_iff (a m : Byte) (p : Flags) : adcValue a m p = 0 ↔ carrySum a m p.c % 256 = 0 := by
  rw [← BitVec.toNat_inj, adcValue, BitVec.toNat_ofNat]
  rfl

/-- `ADC` is the addition over the integers. -/
theorem Cpu.adc_eq_addition (m : Byte) (c : Cpu) : c.adc m = c.addition m := by
  simp only [Cpu.adc, adcFlags, Flags.setZN, decide_eq_decide.mpr (adcOverflow_iff c.a m c.p),
    decide_eq_decide.mpr (adcValue_eq_zero_iff c.a m c.p)]
  rfl

/-! ### Subtraction with borrow over the integers (R221) -/

theorem toNat_xor_0xFF (m : Byte) : (m ^^^ 0xFF).toNat = 255 - m.toNat := by
  rw [show (0xFF : Byte) = BitVec.allOnes 8 from rfl, BitVec.xor_allOnes, BitVec.toNat_not]

theorem toInt_xor_0xFF (m : Byte) : (m ^^^ 0xFF).toInt = -m.toInt - 1 := by
  have hm := m.isLt
  simp only [BitVec.toInt_eq_toNat_cond, toNat_xor_0xFF]
  omega

/-- Numbers 256 apart are the same byte. -/
theorem ofNat_eq_ofInt_of_add_256 {sum : Nat} {diff : Int} (h : (sum : Int) = diff + 256) : BitVec.ofNat 8 sum = BitVec.ofInt 8 diff := by
  rw [← BitVec.ofInt_natCast, h, BitVec.ofInt_add]
  exact BitVec.add_zero _

/-- Adding the one's complement with carry is subtracting with borrow: the sum is the difference plus 256. -/
theorem Cpu.addition_complement (m : Byte) (c : Cpu) : c.addition (m ^^^ 0xFF) = c.subtraction m := by
  have hm := m.isLt
  have hsum : ((c.a.toNat + (255 - m.toNat) + c.p.c.toNat : Nat) : Int) = c.a.toNat - m.toNat - (1 - c.p.c.toNat) + 256 := by omega
  have hsigned : c.a.toInt + (-m.toInt - 1) + (c.p.c.toNat : Int) = c.a.toInt - m.toInt - (1 - c.p.c.toNat) := by omega
  simp only [Cpu.addition, Cpu.subtraction, toNat_xor_0xFF, toInt_xor_0xFF, hsigned, ofNat_eq_ofInt_of_add_256 hsum, Cpu.mk.injEq,
    Flags.mk.injEq, decide_eq_decide, true_and, and_true]
  omega

/-- `SBC` is the subtraction over the integers. -/
theorem Cpu.sbc_eq_subtraction (m : Byte) (c : Cpu) : c.sbc m = c.subtraction m := by
  rw [Cpu.sbc, Cpu.adc_eq_addition, Cpu.addition_complement]

/-! ### Every form of `ADC` and `SBC` (R174, R220, R221, R304) -/

theorem exec_adcForms (v z : Byte) (a : Word) (s : State) : ∀ f ∈ adcForms v z a, exec f.1 s = .next (readInstr Cpu.adc f.2 s) := by
  simp only [adcForms, List.forall_mem_cons]
  exact ⟨rfl, rfl, rfl, rfl, rfl, rfl, rfl, rfl, List.forall_mem_nil _⟩

theorem exec_sbcForms (v z : Byte) (a : Word) (s : State) : ∀ f ∈ sbcForms v z a, exec f.1 s = .next (readInstr Cpu.sbc f.2 s) := by
  simp only [sbcForms, List.forall_mem_cons]
  exact ⟨rfl, rfl, rfl, rfl, rfl, rfl, rfl, rfl, rfl, List.forall_mem_nil _⟩

/-- Settles O21: every form is the read template, and its effect is the sum or the difference over the integers. -/
theorem addSubtract : Obligations.AddSubtract := by
  intro v z a s
  exact ⟨fun f hf => readInstr_effect (exec_adcForms v z a s f hf) Cpu.adc_eq_addition,
    fun f hf => readInstr_effect (exec_sbcForms v z a s f hf) Cpu.sbc_eq_subtraction, rfl, rfl⟩

/-! ### Logic (R222 to R224) -/

theorem exec_andForms (v z : Byte) (a : Word) (s : State) : ∀ f ∈ andForms v z a, exec f.1 s = .next (readInstr Cpu.and f.2 s) := by
  simp only [andForms, List.forall_mem_cons]
  exact ⟨rfl, rfl, rfl, rfl, rfl, rfl, rfl, rfl, List.forall_mem_nil _⟩

theorem exec_oraForms (v z : Byte) (a : Word) (s : State) : ∀ f ∈ oraForms v z a, exec f.1 s = .next (readInstr Cpu.ora f.2 s) := by
  simp only [oraForms, List.forall_mem_cons]
  exact ⟨rfl, rfl, rfl, rfl, rfl, rfl, rfl, rfl, List.forall_mem_nil _⟩

theorem exec_eorForms (v z : Byte) (a : Word) (s : State) : ∀ f ∈ eorForms v z a, exec f.1 s = .next (readInstr Cpu.eor f.2 s) := by
  simp only [eorForms, List.forall_mem_cons]
  exact ⟨rfl, rfl, rfl, rfl, rfl, rfl, rfl, rfl, List.forall_mem_nil _⟩

/-- Settles O22: every form is the read template, and it loads `A` with the bitwise result, which sets `Z` and `N`. -/
theorem logic : Obligations.Logic := by
  intro v z a s
  exact ⟨fun f hf => readInstr_effect (exec_andForms v z a s f hf) fun m c => c.lda_eq (c.a &&& m),
    fun f hf => readInstr_effect (exec_oraForms v z a s f hf) fun m c => c.lda_eq (c.a ||| m),
    fun f hf => readInstr_effect (exec_eorForms v z a s f hf) fun m c => c.lda_eq (c.a ^^^ m), rfl, rfl, rfl⟩

/-! ### Comparisons and the bit test (R225 to R228) -/

/-- The difference is zero exactly if the operands are equal. -/
theorem compareFlags_eq_compared (r m : Byte) (p : Flags) : compareFlags r m p = p.compared r m := by
  simp only [compareFlags, Flags.setZN, Flags.compared, decide_eq_decide.mpr (sub_eq_zero (a := r) (b := m))]

theorem Cpu.cmp_eq (m : Byte) (c : Cpu) : c.cmp m = { c with p := c.p.compared c.a m } := by
  rw [Cpu.cmp, compareFlags_eq_compared]

theorem Cpu.cpx_eq (m : Byte) (c : Cpu) : c.cpx m = { c with p := c.p.compared c.x m } := by
  rw [Cpu.cpx, compareFlags_eq_compared]

theorem Cpu.cpy_eq (m : Byte) (c : Cpu) : c.cpy m = { c with p := c.p.compared c.y m } := by
  rw [Cpu.cpy, compareFlags_eq_compared]

theorem exec_cmpForms (v z : Byte) (a : Word) (s : State) : ∀ f ∈ cmpForms v z a, exec f.1 s = .next (readInstr Cpu.cmp f.2 s) := by
  simp only [cmpForms, List.forall_mem_cons]
  exact ⟨rfl, rfl, rfl, rfl, rfl, rfl, rfl, rfl, List.forall_mem_nil _⟩

theorem exec_cpxForms (v z : Byte) (a : Word) (s : State) : ∀ f ∈ cpxForms v z a, exec f.1 s = .next (readInstr Cpu.cpx f.2 s) := by
  simp only [cpxForms, List.forall_mem_cons]
  exact ⟨rfl, rfl, rfl, List.forall_mem_nil _⟩

theorem exec_cpyForms (v z : Byte) (a : Word) (s : State) : ∀ f ∈ cpyForms v z a, exec f.1 s = .next (readInstr Cpu.cpy f.2 s) := by
  simp only [cpyForms, List.forall_mem_cons]
  exact ⟨rfl, rfl, rfl, List.forall_mem_nil _⟩

theorem exec_bitForms (z : Byte) (a : Word) (s : State) : ∀ f ∈ bitForms z a, exec f.1 s = .next (readInstr Cpu.bit f.2 s) := by
  simp only [bitForms, List.forall_mem_cons]
  exact ⟨rfl, rfl, List.forall_mem_nil _⟩

/-- Settles O23: every form is the read template, and its effect on the registers is on the flags alone. -/
theorem compareAndTest : Obligations.CompareAndTest := by
  intro v z a s
  exact ⟨fun f hf => readInstr_effect (exec_cmpForms v z a s f hf) Cpu.cmp_eq,
    fun f hf => readInstr_effect (exec_cpxForms v z a s f hf) Cpu.cpx_eq,
    fun f hf => readInstr_effect (exec_cpyForms v z a s f hf) Cpu.cpy_eq,
    fun f hf => readInstr_effect (exec_bitForms z a s f hf) fun _ _ => rfl, rfl, rfl, rfl, rfl⟩

/-! ### Register increment and decrement (R231 to R234) -/

theorem add_one_eq_ofNat (x : Byte) : x + 1 = BitVec.ofNat 8 (x.toNat + 1) := by
  apply BitVec.eq_of_toNat_eq
  rw [BitVec.toNat_add, BitVec.toNat_ofNat]
  rfl

/-- Modulo 256, taking one away is adding 255. -/
theorem sub_one_eq_ofNat (x : Byte) : x - 1 = BitVec.ofNat 8 (x.toNat + 255) := by
  apply BitVec.eq_of_toNat_eq
  rw [BitVec.toNat_sub, BitVec.toNat_ofNat, Nat.add_comm]
  rfl

/-- Settles O28: each is the implied template, and it loads its register with the sum modulo 256, which sets `Z` and `N`. -/
theorem registerSteps : Obligations.RegisterSteps := by
  intro s
  refine ⟨?inx, ?iny, ?dex, ?dey, rfl⟩
  case inx => exact impliedInstr_effect rfl fun c => by rw [Cpu.inx, add_one_eq_ofNat, Cpu.ldx_eq]
  case iny => exact impliedInstr_effect rfl fun c => by rw [Cpu.iny, add_one_eq_ofNat, Cpu.ldy_eq]
  case dex => exact impliedInstr_effect rfl fun c => by rw [Cpu.dex, sub_one_eq_ofNat, Cpu.ldx_eq]
  case dey => exact impliedInstr_effect rfl fun c => by rw [Cpu.dey, sub_one_eq_ofNat, Cpu.ldy_eq]

end Sys2Proof.Machine
end

section
/-! SUPPORT. Shifts, rotates, and the increment and decrement of memory (spec file 43: R176, R250 to R255). -/

namespace Sys2Proof.Machine

/-! ### Shifts and nine-bit rotates over the integers (R250 to R253) -/

theorem shiftLeft_one_eq_ofNat (v : Byte) : v <<< 1 = BitVec.ofNat 8 (2 * v.toNat) := by
  apply BitVec.eq_of_toNat_eq
  rw [BitVec.toNat_shiftLeft, BitVec.toNat_ofNat, Nat.shiftLeft_eq, Nat.mul_comm]

theorem shiftRight_one_eq_ofNat (v : Byte) : v >>> 1 = BitVec.ofNat 8 (v.toNat / 2) := by
  apply BitVec.eq_of_toNat_eq
  rw [BitVec.toNat_ushiftRight, Nat.shiftRight_eq_div_pow, BitVec.toNat_ofNat]
  have hv := v.isLt
  omega

theorem bitAt_eq_ofNat (k : Nat) (b : Bool) : bitAt k b = BitVec.ofNat 8 (2 ^ k * b.toNat) := by
  cases b with
  | false => rfl
  | true =>
    apply BitVec.eq_of_toNat_eq
    show (BitVec.twoPow 8 k).toNat = _
    rw [BitVec.toNat_twoPow, BitVec.toNat_ofNat, Bool.toNat_true, Nat.mul_one]

theorem and_bitAt_eq_zero {v : Byte} {k : Nat} (hv : v.getLsbD k = false) (b : Bool) : v &&& bitAt k b = 0#8 := by
  cases b with
  | false => exact BitVec.and_zero
  | true =>
    show v &&& BitVec.twoPow 8 k = 0#8
    rw [BitVec.and_twoPow, hv]
    rfl

/-- Setting a bit that is clear adds its weight. -/
theorem or_bitAt_eq_ofNat {n k : Nat} (hn : (BitVec.ofNat 8 n).getLsbD k = false) (b : Bool) :
    BitVec.ofNat 8 n ||| bitAt k b = BitVec.ofNat 8 (n + 2 ^ k * b.toNat) := by
  rw [← BitVec.add_eq_or_of_and_eq_zero _ _ (and_bitAt_eq_zero hn b), bitAt_eq_ofNat, BitVec.ofNat_add]

/-- The shift left has emptied bit 0 for the carry. -/
theorem rotateLeft_eq_ofNat (v : Byte) (b : Bool) : v <<< 1 ||| bitAt 0 b = BitVec.ofNat 8 (2 * v.toNat + b.toNat) := by
  have hclear : (v <<< 1).getLsbD 0 = false := by simp
  rw [shiftLeft_one_eq_ofNat] at hclear ⊢
  rw [or_bitAt_eq_ofNat hclear, Nat.pow_zero, Nat.one_mul]

/-- The shift right has emptied bit 7 for the carry. -/
theorem rotateRight_eq_ofNat (v : Byte) (b : Bool) : v >>> 1 ||| bitAt 7 b = BitVec.ofNat 8 (v.toNat / 2 + 128 * b.toNat) := by
  have hclear : (v >>> 1).getLsbD 7 = false := by simp
  rw [shiftRight_one_eq_ofNat] at hclear ⊢
  exact or_bitAt_eq_ofNat hclear b

theorem aslFn_eq (v : Byte) (p : Flags) : aslFn v p = (BitVec.ofNat 8 (2 * v.toNat), { p with c := v.getLsbD 7 }) := by
  rw [aslFn, shiftLeft_one_eq_ofNat]

theorem lsrFn_eq (v : Byte) (p : Flags) : lsrFn v p = (BitVec.ofNat 8 (v.toNat / 2), { p with c := v.getLsbD 0 }) := by
  rw [lsrFn, shiftRight_one_eq_ofNat]

theorem rolFn_eq (v : Byte) (p : Flags) : rolFn v p = (BitVec.ofNat 8 (2 * v.toNat + p.c.toNat), { p with c := v.getLsbD 7 }) := by
  rw [rolFn, rotateLeft_eq_ofNat]

theorem rorFn_eq (v : Byte) (p : Flags) : rorFn v p = (BitVec.ofNat 8 (v.toNat / 2 + 128 * p.c.toNat), { p with c := v.getLsbD 0 }) := by
  rw [rorFn, rotateRight_eq_ofNat]

/-! ### The accumulator forms (R161, R250 to R253) -/

/-- A shift of the accumulator to `r` that pushes `b` into the carry. -/
theorem Cpu.shiftA_eq {f : Byte → Flags → Byte × Flags} {c : Cpu} {r : Byte} {b : Bool} (h : f c.a c.p = (r, { c.p with c := b })) :
    c.shiftA f = { c with a := r, p := { c.p.zn r with c := b } } := by
  rw [Cpu.shiftA, h]
  rfl

/-- Settles O29: each is the implied template, and its shift, doubling or halving over the integers, leaves the bit pushed out in the carry. -/
theorem accumulatorShifts : Obligations.AccumulatorShifts := by
  intro s
  refine ⟨?asl, ?lsr, ?rol, ?ror, rfl⟩
  case asl => exact impliedInstr_effect rfl fun c => Cpu.shiftA_eq (aslFn_eq c.a c.p)
  case lsr => exact impliedInstr_effect rfl fun c => Cpu.shiftA_eq (lsrFn_eq c.a c.p)
  case rol => exact impliedInstr_effect rfl fun c => Cpu.shiftA_eq (rolFn_eq c.a c.p)
  case ror => exact impliedInstr_effect rfl fun c => Cpu.shiftA_eq (rorFn_eq c.a c.p)

/-! ### The memory forms (R176, R250 to R255) -/

theorem exec_aslForms (z : Byte) (a : Word) (s : State) : ∀ f ∈ aslForms z a, exec f.1 s = .next (rmwInstr aslFn Cpu.result f.2 s) := by
  simp only [aslForms, List.forall_mem_cons]
  exact ⟨rfl, rfl, rfl, rfl, List.forall_mem_nil _⟩

theorem exec_lsrForms (z : Byte) (a : Word) (s : State) : ∀ f ∈ lsrForms z a, exec f.1 s = .next (rmwInstr lsrFn Cpu.result f.2 s) := by
  simp only [lsrForms, List.forall_mem_cons]
  exact ⟨rfl, rfl, rfl, rfl, List.forall_mem_nil _⟩

theorem exec_rolForms (z : Byte) (a : Word) (s : State) : ∀ f ∈ rolForms z a, exec f.1 s = .next (rmwInstr rolFn Cpu.result f.2 s) := by
  simp only [rolForms, List.forall_mem_cons]
  exact ⟨rfl, rfl, rfl, rfl, List.forall_mem_nil _⟩

theorem exec_rorForms (z : Byte) (a : Word) (s : State) : ∀ f ∈ rorForms z a, exec f.1 s = .next (rmwInstr rorFn Cpu.result f.2 s) := by
  simp only [rorForms, List.forall_mem_cons]
  exact ⟨rfl, rfl, rfl, rfl, List.forall_mem_nil _⟩

theorem exec_incForms (z : Byte) (a : Word) (s : State) : ∀ f ∈ incForms z a, exec f.1 s = .next (rmwInstr incFn Cpu.result f.2 s) := by
  simp only [incForms, List.forall_mem_cons]
  exact ⟨rfl, rfl, rfl, rfl, List.forall_mem_nil _⟩

theorem exec_decForms (z : Byte) (a : Word) (s : State) : ∀ f ∈ decForms z a, exec f.1 s = .next (rmwInstr decFn Cpu.result f.2 s) := by
  simp only [decForms, List.forall_mem_cons]
  exact ⟨rfl, rfl, rfl, rfl, List.forall_mem_nil _⟩

/-- A form that is the read-modify-write template of a shift: memory takes `new` of the old byte, which sets `Z` and `N`,
and the carry takes the bit `out` of it. -/
theorem shift_effect {i : Instr} {m : MemMode} {f : Byte → Flags → Byte × Flags} {new : Byte → Flags → Byte} {out : Byte → Bool} {s : State}
    (hf : s.fault = none) (hi : s.CartInv) (he : exec i s = .next (rmwInstr f Cpu.result m s))
    (h : ∀ v p, f v p = (new v p, { p with c := out v })) :
    RmwEffect i m new (fun v c => { c with p := { c.p.zn (new v c.p) with c := out v } }) s := by
  refine rmwInstr_effect hf hi he (fun v p => ?_) fun v c => ?_
  · rw [h]
  · rw [h]
    rfl

/-- Settles O32: every form is the read-modify-write template, the rotates are of nine bits over the integers, and its opcode is read off the encoding. -/
theorem memoryShiftsAndSteps : Obligations.MemoryShiftsAndSteps := by
  intro z a s hf hi
  refine ⟨?asl, ?lsr, ?rol, ?ror, ?inc, ?dec, rfl, rfl, rfl, rfl, rfl, rfl⟩
  case asl => exact fun f hm => shift_effect hf hi (exec_aslForms z a s f hm) fun _ _ => rfl
  case lsr => exact fun f hm => shift_effect hf hi (exec_lsrForms z a s f hm) fun _ _ => rfl
  case rol => exact fun f hm => shift_effect hf hi (exec_rolForms z a s f hm) rolFn_eq
  case ror => exact fun f hm => shift_effect hf hi (exec_rorForms z a s f hm) rorFn_eq
  case inc => exact fun f hm => rmwInstr_effect hf hi (exec_incForms z a s f hm) (fun _ _ => rfl) fun _ _ => rfl
  case dec => exact fun f hm => rmwInstr_effect hf hi (exec_decForms z a s f hm) (fun _ _ => rfl) fun _ _ => rfl

end Sys2Proof.Machine
end

section
/-! SUPPORT. Jumps, calls, returns and branches (R260 to R273). -/

namespace Sys2Proof.Machine

/-! ### Jumps (R260, R261) -/

/-- The pointer of an indirect jump, its second byte from the page of its first (R261). -/
theorem exec_jmpInd (a : Word) (s : State) :
    exec (.jmpInd a) s = .next ((memRead (word (hi a) (lo a + 1)) (memRead a s).2).2.setPc
      (word (memRead (word (hi a) (lo a + 1)) (memRead a s).2).1 (memRead a s).1)) := rfl

/-- Settles O35: the two reads of the pointer leave everything alone, and each answers the byte of plain memory it finds. -/
theorem jumps : Obligations.Jumps := by
  intro a s
  have f := (memRead_frame a s).trans (memRead_frame (word (hi a) (lo a + 1)) (memRead a s).2)
  refine ⟨rfl, _, exec_jmpInd a s, f.toUntouched.trans (State.setCpu_untouched _ _), ?_, fun hf l h hl hh => ?_⟩
  · rw [State.setPc, State.setCpu_cpu, f.cpu]
  · rw [← State.plainByte_congr (memRead_frame a s).toUntouched] at hh
    rw [State.setPc_pc, memRead_plain hf hl, memRead_plain ((memRead_fault a s).trans hf) hh]

/-! ### Call and return (R262, R263) -/

/-- The state of a `JSR` after its pushes, before it reads the target's high byte (R262). -/
def called (s : State) : State := pushedPc (dummyStack s)

theorem called_cpu (s : State) : (called s).cpu = { s.cpu with sp := s.cpu.sp - 2 } := by
  rw [called, pushedPc_cpu, dummyStack_cpu]

theorem called_fault (s : State) : (called s).fault = s.fault := by
  rw [called, pushedPc_fault, dummyStack_fault]

theorem called_mem {s : State} (hf : s.fault = none) :
    (called s).mem = { s.mem with ram := (s.mem.ram.write (256 + s.cpu.sp.toNat) (hi s.cpu.pc)).write (256 + (s.cpu.sp - 1).toNat) (lo s.cpu.pc) } := by
  rw [called, pushedPc_mem ((dummyStack_fault s).trans hf), dummyStack_mem, dummyStack_cpu]

theorem called_rest (s : State) : RestUntouched s (called s) :=
  (RestUntouched.of_untouched (dummyRead_frame _ s).toUntouched).trans (pushedPc_rest _)

/-- The end of a `JSR`: the target's low byte is the operand's, its high byte the one read after the pushes (R262). -/
def calledTo (a : Word) (s : State) : State :=
  (memRead s.cpu.pc (called s)).2.setPc (word (memRead s.cpu.pc (called s)).1 (lo a))

theorem exec_jsr (a : Word) (s : State) : exec (.jsr a) s = .next (calledTo a s) := by
  have hpush : push (lo s.cpu.pc) (push (hi s.cpu.pc) (dummyStack s)) = called s := by
    rw [called, pushedPc, dummyStack_cpu]
  show execJsr a s = _
  unfold execJsr
  rw [hpush]
  dsimp only
  rw [called_cpu]
  rfl

theorem calledTo_cpu (a : Word) (s : State) :
    (calledTo a s).cpu = { s.cpu with pc := word (memRead s.cpu.pc (called s)).1 (lo a), sp := s.cpu.sp - 2 } := by
  rw [calledTo, State.setPc, State.setCpu_cpu, memRead_cpu, called_cpu]

/-- The read of the target's high byte leaves alone what the pushes left. -/
theorem calledTo_untouched (a : Word) (s : State) : Untouched (called s) (calledTo a s) :=
  (memRead_frame _ _).toUntouched.trans (State.setCpu_untouched _ _)

/-- The state of an `RTS` after its pulls, before the dummy read at the address pulled (R263). -/
def pulledPc (s : State) : State := (pull (pulled s).2).2.setPc (word (pull (pulled s).2).1 (pulled s).1)

theorem exec_rts (s : State) : exec .rts s = .next ((dummyPc (pulledPc s)).setPc ((pulledPc s).cpu.pc + 1)) := by
  show Host.Outcome.next ((dummyPc (pulledPc s)).setPc ((dummyPc (pulledPc s)).cpu.pc + 1)) = _
  rw [dummyPc_cpu]

theorem pulledPc_cpu (s : State) : (pulledPc s).cpu = { s.cpu with pc := (pulledPc s).cpu.pc, sp := s.cpu.sp + 2 } := by
  simp only [pulledPc, State.setPc, State.setCpu_cpu, pull_cpu, pulled_cpu, Cpu.mk.injEq, true_and, and_true]
  bv_omega

theorem pulledPc_untouched (s : State) : Untouched s (pulledPc s) :=
  ((pulled_untouched s).trans (pull_untouched _)).trans (State.setCpu_untouched _ _)

/-- The address pulled, low byte first. -/
theorem pulledPc_pc {s : State} (hf : s.fault = none) :
    (pulledPc s).cpu.pc = word (s.mem.ram.read (256 + (s.cpu.sp + 2).toNat)) (s.mem.ram.read (256 + (s.cpu.sp + 1).toNat)) := by
  have u := pulled_untouched s
  rw [pulledPc, State.setPc_pc, pulled_value hf, pull_value (u.fault.trans hf), u.mem, pulled_cpu,
    show s.cpu.sp + 1 + 1 = s.cpu.sp + 2 by bv_omega]

/-- Settles O36: `JSR` reads the target's high byte after its pushes, `RTS` adds one to the address it pulled. -/
theorem subroutines : Obligations.Subroutines := by
  refine ⟨fun a s => ?jsr, fun s => ?rts⟩
  case jsr =>
    have hread := calledTo_untouched a s
    have hrest := (called_rest s).trans (.of_untouched hread)
    refine ⟨_, exec_jsr a s, hrest, ?_, ?_, fun hf => ⟨hread.mem.trans (called_mem hf), fun h hh => ?_⟩⟩
    · rw [calledTo_cpu]
    · rw [calledTo_cpu, lo_word]
    · rw [← State.plainByte_congr hrest, State.plainByte_congr hread] at hh
      rw [calledTo_cpu, memRead_plain ((called_fault s).trans hf) hh]
  case rts =>
    refine ⟨_, exec_rts s, ((pulledPc_untouched s).trans (dummyPc_untouched _)).trans (State.setCpu_untouched _ _), ?_, fun hf => ?_⟩
    · rw [State.setPc, State.setCpu_cpu, dummyPc_cpu, pulledPc_cpu]
    · rw [State.setPc_pc, pulledPc_pc hf]

/-- Two bytes written one below the other in page 1 of a canonical memory are both read back, also where `S` wraps (R21). -/
theorem read_pushedPair {m : Memory} (h : m.wf = true) (sp v w : Byte) :
    ((m.write (256 + sp.toNat) v).write (256 + (sp - 1).toNat) w).read (256 + sp.toNat) = v ∧
    ((m.write (256 + sp.toNat) v).write (256 + (sp - 1).toNat) w).read (256 + (sp - 1).toNat) = w := by
  have hne : 256 + sp.toNat ≠ 256 + (sp - 1).toNat := by bv_omega
  have hw := Memory.wf_write h (256 + sp.toNat) v
  rw [Memory.read_write hw, Memory.read_write hw, if_neg hne, Memory.read_write h, if_pos rfl, if_pos rfl]
  exact ⟨rfl, rfl⟩

/-- Settles O37: `RTS` pulls the two bytes that `JSR` pushed and adds one. -/
theorem callThenReturn : Obligations.CallThenReturn := by
  intro a s t hf hw he
  obtain ⟨t', he', hrest, hcpu, -, hcall⟩ := subroutines.1 a s
  obtain rfl : t' = t := Host.Outcome.next.inj (he'.symm.trans he)
  obtain ⟨u, hu, -, hucpu, hret⟩ := subroutines.2 t'
  have hsp : t'.cpu.sp = s.cpu.sp - 2 := by rw [hcpu]
  have hpc : u.cpu.pc = s.cpu.pc + 1 := by
    obtain ⟨hhigh, hlow⟩ := read_pushedPair (Buffers.wf_get hw .ram) s.cpu.sp (hi s.cpu.pc) (lo s.cpu.pc)
    rw [hret (hrest.fault.trans hf), (hcall hf).1, hsp, show s.cpu.sp - 2 + 2 = s.cpu.sp by bv_omega,
      show s.cpu.sp - 2 + 1 = s.cpu.sp - 1 by bv_omega]
    exact congrArg (· + 1) ((congrArg₂ word hhigh hlow).trans (word_hi_lo _))
  refine ⟨u, hu, ?_⟩
  rw [hucpu, hpc, hsp, hcpu, show s.cpu.sp - 2 + 2 = s.cpu.sp by bv_omega]

/-! ### Branches (R264 to R272) -/

theorem branchTarget_eq_ofInt (pc : Word) (d : Byte) : branchTarget pc d = BitVec.ofInt 16 (pc.toNat + d.toInt) := by
  rw [BitVec.ofInt_add, BitVec.ofInt_natCast, BitVec.ofNat_toNat, BitVec.setWidth_eq]
  rfl

theorem takeBranch_eq (d : Byte) (s : State) :
    takeBranch d s = (if hi (branchTarget s.cpu.pc d) ≠ hi s.cpu.pc
      then dummyRead (word (hi s.cpu.pc) (lo (branchTarget s.cpu.pc d))) (dummyRead s.cpu.pc s)
      else dummyRead s.cpu.pc s).setPc (branchTarget s.cpu.pc d) := by
  simp only [takeBranch, branchCrosses, decide_eq_true_eq]

/-- A meaning that is `branchInstr` has the effect of a branch. -/
theorem branchInstr_effect {i : Instr} {d : Byte} {taken : Bool} {s : State} (he : exec i s = .next (branchInstr taken d s)) :
    BranchEffect i d taken s := by
  unfold BranchEffect
  rw [← branchTarget_eq_ofInt]
  dsimp only
  rw [← takeBranch_eq]
  exact ⟨he, takeBranch_cpu d s, takeBranch_untouched d s⟩

theorem exec_branchForms (d : Byte) (s : State) : ∀ f ∈ branchForms d s.cpu.p, exec f.1 s = .next (branchInstr f.2 d s) := by
  simp only [branchForms, List.forall_mem_cons]
  exact ⟨rfl, rfl, rfl, rfl, rfl, rfl, rfl, rfl, List.forall_mem_nil _⟩

/-- Settles O38: every form is the branch template on its condition, and its opcode is read off the encoding. -/
theorem branches : Obligations.Branches := by
  intro d s
  exact ⟨fun f hf => branchInstr_effect (exec_branchForms d s f hf), rfl⟩

end Sys2Proof.Machine
end

section
/-! SUPPORT. Flag instructions, no operations, the exception entry and its return (spec files 45, 46, 60: R284 to R293, R301, R350 to R355). -/

namespace Sys2Proof.Machine

/-! ### No operations (R161, R174, R291, R301) -/

theorem exec_nopForms (v z : Byte) (a : Word) (s : State) :
    ∀ f ∈ nopForms v z a, exec f.1 s = .next (readInstr Cpu.discard f.2 s) := by
  simp only [nopForms, List.forall_mem_cons]
  exact ⟨rfl, rfl, rfl, rfl, rfl, rfl, rfl, rfl, rfl, rfl, rfl, rfl, rfl, rfl, rfl, rfl, rfl, rfl, rfl, rfl, rfl, List.forall_mem_nil _⟩

theorem exec_nopImplied (s : State) : ∀ i ∈ nopImplied, exec i s = .next (impliedInstr Cpu.nop s) := by
  simp only [nopImplied, List.forall_mem_cons]
  exact ⟨rfl, rfl, rfl, rfl, rfl, rfl, rfl, List.forall_mem_nil _⟩

/-- Settles O24: the forms with an operand are the read template that discards it, the others the implied template with no effect. -/
theorem noOperations : Obligations.NoOperations := by
  intro v z a s
  exact ⟨fun f hf => readInstr_effect (exec_nopForms v z a s f hf) fun _ _ => rfl,
    fun i hi => impliedInstr_effect (exec_nopImplied s i hi) fun _ => rfl⟩

/-! ### Flag instructions (R161, R284 to R290) -/

/-- Settles O30: each is the implied template with the write of its one flag, and its opcode is read off the encoding. -/
theorem flagInstructions : Obligations.FlagInstructions := by
  intro s
  refine ⟨?clc, ?sec, ?cli, ?sei, ?cld, ?sed, ?clv, rfl⟩
  case clc => exact impliedInstr_effect (f := Cpu.clc) rfl fun _ => rfl
  case sec => exact impliedInstr_effect (f := Cpu.sec) rfl fun _ => rfl
  case cli => exact impliedInstr_effect (f := Cpu.cli) rfl fun _ => rfl
  case sei => exact impliedInstr_effect (f := Cpu.sei) rfl fun _ => rfl
  case cld => exact impliedInstr_effect (f := Cpu.cld) rfl fun _ => rfl
  case sed => exact impliedInstr_effect (f := Cpu.sed) rfl fun _ => rfl
  case clv => exact impliedInstr_effect (f := Cpu.clv) rfl fun _ => rfl

/-! ### The exception entry (R292, R352, R353) -/

/-- The vector selected after the pushes of the program counter (R353). -/
theorem selectVector_pushedPc (s : State) : (selectVector (pushedPc s)).1 = s.entryVector := by
  unfold selectVector State.entryVector
  split <;> rfl

/-- An exception entry after reads alone has the effect of one from the state before them. -/
theorem takeException_entry (b : Bool) {s u : State} (hread : ReadFrame s u) : EntryEffect b s u (takeException b u) := by
  have hrest : RestUntouched s (pushedAll b u) := (RestUntouched.of_untouched hread.toUntouched).trans (pushedAll_rest b u)
  have hload := loadPc_untouched (selectVector (pushedPc u)).1 (pushedAll b u)
  rw [takeException_eq]
  refine ⟨?_, hrest.trans (.of_untouched hload), fun hf => ?_⟩
  · rw [loadPc_cpu, pushedAll_cpu, hread.cpu]
  · have hmem : (pushedAll b u).mem = s.entryMem b := by
      rw [pushedAll_mem b (hread.fault.trans hf), hread.mem, hread.cpu, State.entryMem]
    refine ⟨hload.mem.trans hmem, fun l h hl hh => ?_⟩
    rw [← hmem, ← State.plainByte_congr hrest, ← selectVector_pushedPc] at hl hh
    rw [loadPc_plain ((pushedAll_fault b u).trans (hread.fault.trans hf)) hl hh]

theorem exec_brk (s : State) : exec .brk s = .next (takeException true ((dummyPc s).setPc (s.cpu.pc + 1))) := by
  show Host.Outcome.next (takeException true ((dummyPc s).setPc ((dummyPc s).cpu.pc + 1))) = _
  rw [dummyPc_cpu]

/-- A dummy read at `PC` changes no register and no memory, also where `PC` is then moved past the byte read. -/
theorem dummyPc_setPc_frame (v : Word) (s : State) : ReadFrame (s.setPc v) ((dummyPc s).setPc v) := by
  have hback : Untouched (s.setPc v) s := State.setCpu_untouched s.cpu (s.setPc v)
  refine ⟨(hback.trans (dummyPc_untouched s)).trans (State.setCpu_untouched _ _), ?_⟩
  simp only [State.setPc, State.setCpu_cpu, dummyPc_cpu]

/-- Settles O42: `BRK` is the exception entry at the address after its padding byte, with the `B` bit. -/
theorem softwareInterrupt : Obligations.SoftwareInterrupt :=
  fun s => ⟨_, exec_brk s, takeException_entry true (dummyPc_setPc_frame (s.cpu.pc + 1) s)⟩

/-! ### The return from an exception (R293) -/

/-- The state of an `RTI` after the pull of the flags: that of a `PLP` (R283, R293). -/
def pulledFlags (s : State) : State := (pulled s).2.setP (Flags.ofByte (pulled s).1)

theorem returnFromException_eq (s : State) : returnFromException s =
    (pull (pull (pulledFlags s)).2).2.setPc (word (pull (pull (pulledFlags s)).2).1 (pull (pulledFlags s)).1) := rfl

/-- A return adds 3 to `S` and changes `P` and `PC`, also on a faulted machine. -/
theorem returnFromException_registers (s : State) :
    (returnFromException s).cpu = { s.cpu with
      pc := (returnFromException s).cpu.pc, sp := s.cpu.sp + 3, p := (returnFromException s).cpu.p } := by
  simp only [returnFromException_eq, pulledFlags, State.setPc, State.setP, State.setCpu_cpu, pull_cpu, pulled_cpu, Cpu.mk.injEq, true_and, and_true]
  bv_omega

/-- Settles O43: the three bytes pulled become `P` and `PC`. -/
theorem returnFromInterrupt : Obligations.ReturnFromInterrupt := by
  intro s
  refine ⟨_, rfl, returnFromException_untouched s, returnFromException_registers s, fun hf => ?_⟩
  rw [returnFromException_cpu hf]
  exact ⟨Flags.toByte_ofByte _, rfl⟩

/-! ### The entry, then the return (R293, R350, R355) -/

/-- The three bytes an exception entry pushes on a canonical memory are read back, also where `S` wraps (R21). -/
theorem read_entryMem (b : Bool) {s : State} (hw : s.mem.wf = true) :
    (s.entryMem b).ram.read (256 + s.cpu.sp.toNat) = hi s.cpu.pc ∧
    (s.entryMem b).ram.read (256 + (s.cpu.sp - 1).toNat) = lo s.cpu.pc ∧
    (s.entryMem b).ram.read (256 + (s.cpu.sp - 2).toNat) = s.cpu.p.toByte b := by
  have hram : s.mem.ram.wf = true := Buffers.wf_get hw .ram
  have hpair := Memory.wf_write (Memory.wf_write hram (256 + s.cpu.sp.toNat) (hi s.cpu.pc)) (256 + (s.cpu.sp - 1).toNat) (lo s.cpu.pc)
  obtain ⟨hhigh, hlow⟩ := read_pushedPair hram s.cpu.sp (hi s.cpu.pc) (lo s.cpu.pc)
  simp only [State.entryMem, Memory.read_write hpair]
  rw [if_neg (by bv_omega), if_neg (by bv_omega), if_pos trivial]
  exact ⟨hhigh, hlow, rfl⟩

/-- A return right after an exception entry restores every register: the `B` bit is no flag. -/
theorem returnFromException_takeException (b : Bool) {s : State} (hf : s.fault = none) (hw : s.mem.wf = true) :
    (returnFromException (takeException b s)).cpu = s.cpu := by
  obtain ⟨hcpu, hrest, hentry⟩ := takeException_entry b (ReadFrame.refl s)
  obtain ⟨hhigh, hlow, hflags⟩ := read_entryMem b hw
  have hsp : (takeException b s).cpu.sp = s.cpu.sp - 3 := by rw [hcpu]
  rw [returnFromException_cpu (hrest.fault.trans hf), (hentry hf).1, hsp, hcpu, show s.cpu.sp - 3 + 3 = s.cpu.sp by bv_omega,
    show s.cpu.sp - 3 + 2 = s.cpu.sp - 1 by bv_omega, show s.cpu.sp - 3 + 1 = s.cpu.sp - 2 by bv_omega,
    hhigh, hlow, hflags, word_hi_lo, Flags.ofByte_toByte]

/-- Settles O45: both enter the exception after dummy reads, which change no register; `BRK` has skipped its padding byte. -/
theorem interruptThenReturn : Obligations.InterruptThenReturn := by
  refine ⟨fun s hf hw => ⟨_, rfl, ?_⟩, fun s t hf hw he => ?_⟩
  · have hread := (dummyRead_frame s.cpu.pc s).trans (dummyRead_frame (dummyPc s).cpu.pc (dummyPc s))
    exact (returnFromException_takeException false (hread.fault.trans hf) (hread.mem ▸ hw)).trans hread.cpu
  · obtain rfl := Host.Outcome.next.inj ((exec_brk s).symm.trans he)
    have hread := dummyPc_setPc_frame (s.cpu.pc + 1) s
    exact ⟨_, rfl, (returnFromException_takeException true (hread.fault.trans hf) (hread.mem ▸ hw)).trans hread.cpu⟩

end Sys2Proof.Machine
end

section
/-! SUPPORT. The illegal opcodes (spec file 46: R302, R305 to R323, R341, R344). -/

namespace Sys2Proof.Machine

/-! ### The stable loads (R174, R302, R315) -/

theorem Cpu.lax_eq (m : Byte) (c : Cpu) : c.lax m = { c with a := m, x := m, p := c.p.zn m } := rfl

theorem Cpu.las_eq (m : Byte) (c : Cpu) :
    c.las m = { c with a := m &&& c.sp, x := m &&& c.sp, sp := m &&& c.sp, p := c.p.zn (m &&& c.sp) } := rfl

theorem exec_laxForms (z : Byte) (a : Word) (s : State) : ∀ f ∈ laxForms z a, exec f.1 s = .next (readInstr Cpu.lax f.2 s) := by
  simp only [laxForms, List.forall_mem_cons]
  exact ⟨rfl, rfl, rfl, rfl, rfl, rfl, List.forall_mem_nil _⟩

/-- Settles O25: every form is the read template, with the load of its registers. -/
theorem stableIllegalLoads : Obligations.StableIllegalLoads := by
  intro z a s
  exact ⟨fun f hf => readInstr_effect (exec_laxForms z a s f hf) Cpu.lax_eq, readInstr_effect rfl Cpu.las_eq⟩

/-! ### The stable immediates (R311 to R314) -/

theorem Cpu.anc_eq (m : Byte) (c : Cpu) :
    c.anc m = { c with a := c.a &&& m, p := { c.p.zn (c.a &&& m) with c := (c.a &&& m).getLsbD 7 } } := rfl

theorem Cpu.alr_eq (m : Byte) (c : Cpu) :
    c.alr m = { c with a := (c.a &&& m) >>> 1, p := { c.p.zn ((c.a &&& m) >>> 1) with c := (c.a &&& m).getLsbD 0 } } := rfl

theorem Cpu.axs_eq (m : Byte) (c : Cpu) : c.axs m = { c with x := (c.a &&& c.x) - m, p := c.p.compared (c.a &&& c.x) m } := by
  rw [Cpu.axs, compareFlags_eq_compared]

/-- The rotation of `ARR` over the integers: half of the conjunction, the old carry in bit 7. -/
theorem arrValue_toNat (a m : Byte) (carry : Bool) : (arrValue a m carry).toNat = (a &&& m).toNat / 2 + 128 * carry.toNat := by
  have hand := (a &&& m).isLt
  have hcarry := Bool.toNat_le carry
  rw [arrValue, rotateRight_eq_ofNat, BitVec.toNat_ofNat]
  omega

theorem exec_ancForms (m : Byte) (s : State) :
    ∀ i ∈ [Instr.ancImm0B m, Instr.ancImm2B m], exec i s = .next (readInstr Cpu.anc (.imm m) s) := by
  simp only [List.forall_mem_cons]
  exact ⟨rfl, rfl, List.forall_mem_nil _⟩

/-- Settles O26: each is the read template of its immediate byte; `ARR` rotates over the integers, `AXS` compares. -/
theorem stableIllegalImmediates : Obligations.StableIllegalImmediates := by
  intro m s
  refine ⟨?anc, ?alr, ?arr, ?axs⟩
  case anc => exact fun i hi => readInstr_effect (exec_ancForms m s i hi) Cpu.anc_eq
  case alr => exact readInstr_effect rfl Cpu.alr_eq
  case arr => exact ⟨_, rfl, readInstr_untouched Cpu.arr (.imm m) s, rfl, arrValue_toNat s.cpu.a m s.cpu.p.c, rfl⟩
  case axs => exact readInstr_effect rfl Cpu.axs_eq

/-! ### `DCP` and `ISB` (R176, R305, R306) -/

theorem exec_dcpForms (z : Byte) (a : Word) (s : State) : ∀ f ∈ dcpForms z a, exec f.1 s = .next (rmwInstr decFn Cpu.cmp f.2 s) := by
  simp only [dcpForms, List.forall_mem_cons]
  exact ⟨rfl, rfl, rfl, rfl, rfl, rfl, rfl, List.forall_mem_nil _⟩

theorem exec_isbForms (z : Byte) (a : Word) (s : State) : ∀ f ∈ isbForms z a, exec f.1 s = .next (rmwInstr incFn Cpu.sbc f.2 s) := by
  simp only [isbForms, List.forall_mem_cons]
  exact ⟨rfl, rfl, rfl, rfl, rfl, rfl, rfl, List.forall_mem_nil _⟩

/-- Settles O33: every form is the read-modify-write template of `DEC` or `INC`, whose result `A` is compared with or reduced by. -/
theorem illegalStepForms : Obligations.IllegalStepForms := by
  intro z a s hf hi
  exact ⟨fun f hm => rmwInstr_effect hf hi (exec_dcpForms z a s f hm) (fun _ _ => rfl) fun v c => c.cmp_eq (v - 1),
    fun f hm => rmwInstr_effect hf hi (exec_isbForms z a s f hm) (fun _ _ => rfl) fun v c => c.sbc_eq_subtraction (v + 1), rfl, rfl⟩

/-! ### `SLO`, `RLA`, `SRE`, `RRA` (R176, R307 to R310) -/

theorem exec_sloForms (z : Byte) (a : Word) (s : State) : ∀ f ∈ sloForms z a, exec f.1 s = .next (rmwInstr aslFn Cpu.ora f.2 s) := by
  simp only [sloForms, List.forall_mem_cons]
  exact ⟨rfl, rfl, rfl, rfl, rfl, rfl, rfl, List.forall_mem_nil _⟩

theorem exec_rlaForms (z : Byte) (a : Word) (s : State) : ∀ f ∈ rlaForms z a, exec f.1 s = .next (rmwInstr rolFn Cpu.and f.2 s) := by
  simp only [rlaForms, List.forall_mem_cons]
  exact ⟨rfl, rfl, rfl, rfl, rfl, rfl, rfl, List.forall_mem_nil _⟩

theorem exec_sreForms (z : Byte) (a : Word) (s : State) : ∀ f ∈ sreForms z a, exec f.1 s = .next (rmwInstr lsrFn Cpu.eor f.2 s) := by
  simp only [sreForms, List.forall_mem_cons]
  exact ⟨rfl, rfl, rfl, rfl, rfl, rfl, rfl, List.forall_mem_nil _⟩

theorem exec_rraForms (z : Byte) (a : Word) (s : State) : ∀ f ∈ rraForms z a, exec f.1 s = .next (rmwInstr rorFn Cpu.adc f.2 s) := by
  simp only [rraForms, List.forall_mem_cons]
  exact ⟨rfl, rfl, rfl, rfl, rfl, rfl, rfl, List.forall_mem_nil _⟩

/-- A form that shifts memory to `new` of the old byte, pushing the bit `out` into the carry, and then loads `A` with `op` of it and the result. -/
theorem shiftThenLogic_effect {i : Instr} {m : MemMode} {f : Byte → Flags → Byte × Flags} {g : Byte → Cpu → Cpu} {op : Byte → Byte → Byte}
    {new : Byte → Flags → Byte} {out : Byte → Bool} {s : State} (hf : s.fault = none) (hi : s.CartInv) (he : exec i s = .next (rmwInstr f g m s))
    (hg : ∀ r c, g r c = c.lda (op c.a r)) (h : ∀ v p, f v p = (new v p, { p with c := out v })) :
    RmwEffect i m new (fun v c => { c with a := op c.a (new v c.p), p := { c.p.zn (op c.a (new v c.p)) with c := out v } }) s := by
  refine rmwInstr_effect hf hi he (fun v p => ?_) fun v c => ?_
  · rw [h]
  · rw [h, hg]
    rfl

/-- Settles O34: every form is the read-modify-write template of a shift or a rotate; `RRA` adds with the carry that its rotate has just produced. -/
theorem illegalShiftForms : Obligations.IllegalShiftForms := by
  intro z a s hf hi
  refine ⟨?slo, ?rla, ?sre, ?rra, rfl, rfl, rfl, rfl⟩
  case slo => exact fun f hm => shiftThenLogic_effect hf hi (exec_sloForms z a s f hm) (fun _ _ => rfl) fun _ _ => rfl
  case rla => exact fun f hm => shiftThenLogic_effect hf hi (exec_rlaForms z a s f hm) (fun _ _ => rfl) rolFn_eq
  case sre => exact fun f hm => shiftThenLogic_effect hf hi (exec_sreForms z a s f hm) (fun _ _ => rfl) fun _ _ => rfl
  case rra =>
    refine fun f hm => rmwInstr_effect hf hi (exec_rraForms z a s f hm) (fun v p => ?_) fun v c => ?_
    · rw [rorFn_eq]
    · rw [rorFn_eq, Cpu.adc_eq_addition]

/-! ### The unstable loads (R316, R317) -/

/-- Settles O46: the free value drawn is the witness. -/
theorem unstableLoads : Obligations.UnstableLoads :=
  fun m s => ⟨⟨Config.unstableLxa s.draws s.cpu.a m, rfl⟩, ⟨Config.unstableXaa s.draws s.cpu.a s.cpu.x m, rfl⟩⟩

/-! ### The unstable stores (R318 to R321, R323) -/

/-- The free page leaves the low byte of the address alone. -/
theorem lo_shAddress (n : Nat) (reg b2 : Byte) (crossed : Bool) (ea : Word) : lo (shAddress n reg b2 crossed ea) = lo ea := by
  cases crossed
  · rfl
  · exact lo_word _ _

/-- A write lands where it would without the draw. -/
theorem memAfterWrite_drawn (s : State) (a : Word) (v : Byte) : s.drawn.memAfterWrite a v = s.memAfterWrite a v := rfl

/-- One write cycle after the cycles of `StoreAddress` and a draw. -/
theorem memWrite_drawn_store {s : State} (hf : s.fault = none) (m : MemMode) (a : Word) (v : Byte) :
    StoreFrame a s (memWrite a v (storeAddress m s).2.drawn) ∧
      (s.mem.wf = true → s.mem.storedAt (memWrite a v (storeAddress m s).2.drawn).mem ((storeAddress m s).2.atWrite.writePlace a) v) := by
  have hread := (storeAddress_frame m s).trans (.of_drawn (.inr rfl))
  refine ⟨(StoreFrame.of_untouched a hread.toUntouched).trans (memWrite_frame a v _), fun hw => ?_⟩
  rw [memWrite_mem (hread.fault.trans hf), memAfterWrite_drawn, State.memAfterWrite, (storeAddress_frame m s).mem]
  exact Buffers.storedAt_storeAt hw _ v

/-- An unstable store in an indexed mode `m`: one write cycle of a free byte after the cycles of `StoreAddress`, at the effective address or,
if the index crossed a page, in a free page (R318 to R321). -/
theorem storeUnstable_store {m : MemMode} {s u : State} {base : Word} {idx : Byte} (hf : s.fault = none) (reg : Byte)
    (haddr : storeAddress m s = indexStore base idx u) (hidx : s.indexing m = some (base, idx)) :
    ∃ (a : Word) (v : Byte), lo a = lo (s.effective m) ∧ (s.pageCrossed m = false → a = s.effective m) ∧
      StoreFrame a s (storeUnstable reg base idx u) ∧
      (s.mem.wf = true → s.mem.storedAt (storeUnstable reg base idx u).mem ((storeAddress m s).2.atWrite.writePlace a) v) := by
  have hcross : s.pageCrossed m = crosses base idx := by rw [State.pageCrossed, hidx]
  have hstore : storeUnstable reg base idx u =
      memWrite (shAddress (storeAddress m s).2.draws reg (hi base) (crosses base idx) (storeAddress m s).1)
        (Config.unstableShValue (storeAddress m s).2.draws reg (hi base) (crosses base idx) (storeAddress m s).1) (storeAddress m s).2.drawn := by
    rw [haddr]
    rfl
  rw [hstore, storeAddress_value hf, ← hcross]
  exact ⟨_, _, lo_shAddress _ _ _ _ _, fun hc => by rw [hc]; rfl, memWrite_drawn_store hf m _ _⟩

/-- A meaning that is `storeUnstable` has the effect of an unstable store. -/
theorem storeUnstable_effect {i : Instr} {m : MemMode} {s u : State} {reg : Byte} {base : Word} {idx : Byte}
    (he : exec i s = .next (storeUnstable reg base idx u)) (hcpu : u.cpu = s.cpu) (haddr : storeAddress m s = indexStore base idx u)
    (hidx : s.fault = none → s.indexing m = some (base, idx)) : UnstableStoreEffect i m s s :=
  ⟨_, he, (storeUnstable_cpu reg base idx u).trans hcpu, fun hf => storeUnstable_store hf reg haddr (hidx hf)⟩

theorem exec_shaIzy (z : Byte) (s : State) : exec (.shaIzy z) s =
    .next (storeUnstable ((zpPointer z s).2.cpu.a &&& (zpPointer z s).2.cpu.x) (zpPointer z s).1 (zpPointer z s).2.cpu.y (zpPointer z s).2) := rfl

/-- `TAS` writes `S`, on which neither the address nor the place of the store depends, and is then an unstable store (R321). -/
theorem tasAby_effect (a : Word) (s : State) : UnstableStoreEffect (.tasAby a) (.aby a) (s.setSp (s.cpu.a &&& s.cpu.x)) s := by
  refine ⟨_, rfl, storeUnstable_cpu _ _ _ _, fun hf => ?_⟩
  obtain ⟨b, v, hlo, heff, hframe, hmem⟩ :=
    storeUnstable_store (m := .aby a) (s := s.setSp (s.cpu.a &&& s.cpu.x)) hf (s.cpu.a &&& s.cpu.x) rfl rfl
  exact ⟨b, v, hlo, heff, (StoreFrame.of_untouched b (State.setCpu_untouched _ s)).trans hframe, hmem⟩

/-- Settles O47: each is one unstable store after the cycles of its mode; the pointer of `(z),Y` lies in page 0. -/
theorem unstableStores : Obligations.UnstableStores := by
  intro z a s
  refine ⟨?shaIzy, ?shaAby, ?shx, ?shy, tasAby_effect a s⟩
  case shaIzy =>
    have hread := zpPointer_frame z s
    refine storeUnstable_effect (exec_shaIzy z s) hread.cpu rfl fun hf => ?_
    rw [zpPointer_value hf, hread.cpu]
    rfl
  case shaAby => exact storeUnstable_effect rfl rfl rfl fun _ => rfl
  case shx => exact storeUnstable_effect rfl rfl rfl fun _ => rfl
  case shy => exact storeUnstable_effect rfl rfl rfl fun _ => rfl

/-! ### The undispatchable opcodes (R322, R341, R344) -/

theorem exec_jamForms (s : State) : ∀ f ∈ jamForms, exec f.1 s = .next (raiseJam f.2 s) := by
  simp only [jamForms, List.forall_mem_cons]
  exact ⟨rfl, rfl, rfl, rfl, rfl, rfl, rfl, rfl, rfl, rfl, rfl, rfl, List.forall_mem_nil _⟩

theorem encode_jamForms : ∀ f ∈ jamForms, encode f.1 = [f.2] := by decide

theorem fetchLength_jamForms : ∀ f ∈ jamForms, fetchLength f.2 = 1 := by decide

/-- An opcode byte in plain memory at `PC` is a whole one-byte instruction. -/
theorem State.holds_singleton {s : State} {op : Byte} (h : s.plainByte s.cpu.pc = some op) : s.holds [op] := by
  intro k b hk
  obtain ⟨rfl, rfl⟩ : k = 0 ∧ op = b := by simpa [List.getElem?_singleton] using hk
  simpa using h

/-- With no DMA pending a CPU read is one read cycle (R84). -/
theorem memRead_eq_readCycle {s : State} (hf : s.fault = none) (hh : s.dma.haltReq = false) (a : Word) : memRead a s = readCycle a s := by
  unfold memRead
  rw [if_neg (by simp [hf]), if_neg (by simp [hh])]

/-- The fetch of a one-byte instruction with no DMA pending is one bus cycle (R160). -/
theorem fetchInstr_cyc {s : State} (hf : s.fault = none) (hh : s.dma.haltReq = false) (hl : fetchLength (fetchByte s).1 = 1) :
    (fetchInstr s).2.clk.cyc = s.clk.cyc + 1 := by
  have hfetch : (fetchInstr s).2 = (fetchByte s).2 := by
    show (fetchOperands (fetchLength (fetchByte s).1) (fetchByte s).2).2.2 = _
    rw [hl]
    rfl
  rw [hfetch]
  show (memRead s.cpu.pc s).2.clk.cyc = _
  rw [memRead_eq_readCycle hf hh]
  exact (readCycle_clk s.cpu.pc s).1

/-- On a machine that has faulted no interrupt is taken (R341). -/
theorem retire_faulted {t : State} (h : t.fault.isSome) : retire t = t := if_pos h

/-- The step that fetches a `JAM` from plain memory records the fault after the fetch, and is over (R322, R344). -/
theorem step_jam {f : Instr × Byte} (hm : f ∈ jamForms) {s : State} (hf : s.fault = none) (hop : s.plainByte s.cpu.pc = some f.2) :
    step s = .next (raiseJam f.2 (fetchInstr s).2) := by
  have hi : (fetchInstr s).1 = f.1 := fetchInstr_of_holds hf ((encode_jamForms f hm).symm ▸ State.holds_singleton hop)
  rw [step_of_exec hf (hi.symm ▸ exec_jamForms _ f hm), retire_faulted rfl]

/-- Settles O48: the fetch of the opcode is the step's one bus cycle, and the fault it then records stops the next step. -/
theorem jamFaults : Obligations.JamFaults := by
  refine fun f hm s => ⟨exec_jamForms s f hm, fun hf hh hop => ?_⟩
  have hlength : fetchLength (fetchByte s).1 = 1 := (memRead_plain hf hop : (fetchByte s).1 = f.2).symm ▸ fetchLength_jamForms f hm
  have hfetched := fetchInstr_fetched s
  rw [hlength] at hfetched
  have hfault : (raiseJam f.2 (fetchInstr s).2).fault = some (.undispatchableOpcode f.2 s.cpu.pc) := by
    have hpc : s.cpu.pc + BitVec.ofNat 16 1 - 1 = s.cpu.pc := by bv_omega
    rw [raiseJam, hfetched.pc, hpc]
  exact ⟨_, step_jam hm hf hop, hfault, fetchInstr_cyc hf hh hlength, hfetched.cpu, hfetched.untouched.mem, (faultedMachineStops _ _ hfault).1⟩

end Sys2Proof.Machine
end

section
/-! SUPPORT. The family of exceptions (spec files 60 to 63): faults, masked interrupt sources, the interrupt sequence. -/

namespace Sys2Proof.Machine

/-! ### Who faults on a legal cartridge (R341, R344, R345) -/

/-- On a legal cartridge an instruction that is no `JAM` completes without a fault. -/
theorem exec_noFault {i : Instr} {s : State} (hs : s.CartInv ∧ s.fault = none) (hi : i ∉ jamForms.map Prod.fst) :
    ∃ t, exec i s = .next t ∧ t.CartInv ∧ t.fault = none :=
  noFault_keeps.exec i hs fun _ hm => absurd (List.mem_map_of_mem hm) hi

theorem instrFetchLength_jamForms : ∀ f ∈ jamForms, Instr.fetchLength f.1 = 1 := by decide

/-- The step that has fetched a `JAM` records its opcode and its address, and takes no interrupt (R322, R344). -/
theorem step_fetchedJam {s : State} {op : Byte} (hf : s.fault = none) (hm : ((fetchInstr s).1, op) ∈ jamForms) :
    step s = .next { (fetchInstr s).2 with fault := some (.undispatchableOpcode op s.cpu.pc) } := by
  have hfetched := fetchInstr_fetched s
  rw [← fetchInstr_fetchLength, instrFetchLength_jamForms _ hm] at hfetched
  have hpc : s.cpu.pc + BitVec.ofNat 16 1 - 1 = s.cpu.pc := by bv_omega
  rw [step_of_exec hf (exec_jamForms _ _ hm), retire_faulted rfl, raiseJam, hfetched.pc, hpc]

/-- Settles O15: fetches, instructions and interrupt sequences keep a legal machine without a fault, but for the record a `JAM` makes. -/
theorem onlyJamFaults : Obligations.OnlyJamFaults := by
  refine ⟨fun i s hc hf hi => ?_, fun s hc hf => ?_⟩
  · obtain ⟨t, ht, htc, htf⟩ := exec_noFault ⟨hc, hf⟩ hi
    exact ⟨t, ht, htf, htc⟩
  have hfetch := noFault_keeps.fetchInstr ⟨hc, hf⟩
  by_cases hjam : (fetchInstr s).1 ∈ jamForms.map Prod.fst
  case pos =>
    obtain ⟨⟨i, op⟩, hm, hi : i = (fetchInstr s).1⟩ := List.mem_map.mp hjam
    subst hi
    refine ⟨_, step_fetchedJam hf hm, hfetch.1, by simp [hjam], fun op' hm' => ?_⟩
    have hsame := Host.Outcome.next.inj ((step_fetchedJam hf hm).symm.trans (step_fetchedJam hf hm'))
    exact congrArg State.fault hsame
  case neg =>
    obtain ⟨t, ht, htok⟩ := exec_noFault hfetch hjam
    obtain ⟨huc, huf⟩ := noFault_keeps.retire htok
    exact ⟨_, step_of_exec hf ht, huc, by simp [huf, hjam], fun op hm => absurd (List.mem_map_of_mem hm) hjam⟩

end Sys2Proof.Machine
end

section
/-! SUPPORT. Masked interrupt sources: an inhibited or disabled source asserts no flag (R461, R464, R466, R469, R535, R541). -/

namespace Sys2Proof.Machine

/-! ### The sources -/

/-- The frame sequencer asserts nothing while it is inhibited (R464, R466). -/
def FrameSeq.MaskedIrq (f : FrameSeq) : Prop := f.irqInhibit = true → f.irqFlag = false

/-- The sample channel asserts nothing while its interrupt is not enabled (R461, R469). -/
def Dmc.MaskedIrq (d : Dmc) : Prop := d.irqEnabled = false → d.irqFlag = false

/-- Both sources of the APU. -/
def Apu.MaskedIrq (a : Apu) : Prop := a.seq.MaskedIrq ∧ a.dmc.MaskedIrq

/-- The scanline counter, where there is one, asserts nothing while it is not enabled (R535, R541). -/
def Mapper.MaskedIrq (m : Mapper) : Prop := ∀ r, m = .mmc3 r → r.irqEnabled = false → r.irqFlag = false

theorem State.maskedIrqInv_iff (s : State) : s.MaskedIrqInv ↔ s.apu.MaskedIrq ∧ s.cart.mapper.MaskedIrq := and_assoc.symm

/-! ### The scanline counter -/

/-- Being clocked does not enable the counter. -/
theorem Mmc3.clockCounter_irqEnabled (r : Mmc3) : r.clockCounter.irqEnabled = r.irqEnabled := by
  unfold Mmc3.clockCounter
  dsimp only
  split <;> split <;> rfl

/-- `PPU` address bit 12 rises, at least ten dots after its fall: what clocks the counter (R545). -/
def Mmc3.Clocks (now : Nat) (a : BitVec 14) (r : Mmc3) : Prop :=
  r.a12 = false ∧ a.getLsbD 12 = true ∧ r.a12LowSince + 10 ≤ now

theorem Mmc3.watch_eq_of_clocks {now : Nat} {a : BitVec 14} {r : Mmc3} (h : r.Clocks now a) :
    r.watch now a = { r.clockCounter with a12 := true } := by
  obtain ⟨ha, hb, hn⟩ := h
  simp [Mmc3.watch, ha, hb, a12FilterDots, hn]

theorem Mmc3.watch_eq_of_not_clocks {now : Nat} {a : BitVec 14} {r : Mmc3} (h : ¬ r.Clocks now a) :
    r.watch now a =
      { r with a12 := a.getLsbD 12, a12LowSince := if r.a12 = true ∧ a.getLsbD 12 = false then now else r.a12LowSince } := by
  unfold Mmc3.Clocks at h
  unfold Mmc3.watch
  generalize a.getLsbD 12 = b at h ⊢
  cases ha : r.a12
  · cases b
    · simp
    · have hn : ¬ r.a12LowSince + 10 ≤ now := fun hn => h ⟨ha, rfl, hn⟩
      simp [a12FilterDots, hn]
  · cases b <;> simp

theorem Mmc3.watch_irqEnabled (now : Nat) (a : BitVec 14) (r : Mmc3) : (r.watch now a).irqEnabled = r.irqEnabled := by
  by_cases h : r.Clocks now a
  · rw [Mmc3.watch_eq_of_clocks h]
    exact Mmc3.clockCounter_irqEnabled r
  · rw [Mmc3.watch_eq_of_not_clocks h]

theorem Mapper.MaskedIrq.watch {m : Mapper} (h : m.MaskedIrq) (now : Nat) (a : BitVec 14) : (m.watch now a).MaskedIrq := by
  cases m with
  | mmc3 r =>
    rintro q hq he
    have hr : r.irqEnabled = false := by
      cases hq
      rwa [Mmc3.watch_irqEnabled] at he
    have hoff : (Mapper.mmc3 r).IrqOff := by
      rintro r' hr'
      cases hr'
      exact ⟨hr, h r rfl hr⟩
    exact (hoff.watch now a q hq).2
  | _ => exact h

/-- A register write asserts no flag, and disabling clears it (R535). -/
theorem Mmc3.load_maskedIrq {r : Mmc3} (h : r.irqEnabled = false → r.irqFlag = false) (a : Word) (v : Byte) :
    (r.load a v).irqEnabled = false → (r.load a v).irqFlag = false := by
  unfold Mmc3.load
  split
  case h_7 => exact fun _ => rfl
  case h_8 => exact fun he => nomatch he
  all_goals exact h

theorem Mapper.MaskedIrq.written {m : Mapper} (h : m.MaskedIrq) (cyc : Nat) (a : Word) (v : Byte) : (m.written cyc a v).MaskedIrq := by
  cases m with
  | mmc3 r =>
    rintro q hq
    cases hq
    exact Mmc3.load_maskedIrq (h r rfl) a v
  | _ => exact fun _ hq => nomatch hq

/-! ### What the PPU shows the cartridge -/

/-- A property of the cartridge that every address shown to it keeps. -/
def Watched (Q : Cart → Prop) : Prop := ∀ now a c, Q c → Q (c.watch now a)

section
variable {Q : Cart → Prop} (hQ : Watched Q)
include hQ

theorem Watched.ppuRead (mem : Buffers) (now : Nat) (a : BitVec 14) {c : Cart} (h : Q c) : Q (c.ppuRead mem now a).2 := hQ now a c h

theorem Watched.notify (p : Ppu) (now : Nat) {c : Cart} (h : Q c) : Q (p.notify now c) := by
  unfold Ppu.notify
  split
  · exact hQ now _ c h
  · exact h

theorem Watched.backgroundDot (mem : Buffers) (now d : Nat) (p : Ppu) {c : Cart} (h : Q c) : Q (p.backgroundDot mem now d c).2 := by
  unfold Ppu.backgroundDot Ppu.fetchBg
  split
  · dsimp only
    split
    · exact hQ.ppuRead mem now _ h
    · exact hQ.ppuRead mem now _ h
    · exact hQ.ppuRead mem now _ h
    · exact hQ.ppuRead mem now _ h
    · exact h
    · exact h
  · exact h

theorem Watched.loadUnits (mem : Buffers) (now s : Nat) (p : Ppu) (l : List SpriteUnit) :
    ∀ (u : Nat) {c : Cart}, Q c → Q (p.loadUnits mem now s u l c).2 := by
  induction l with
  | nil => exact fun _ _ h => h
  | cons old rest ih =>
    intro u c h
    refine ih (u + 1) ?_
    split
    · exact hQ.ppuRead mem now _ (hQ.ppuRead mem now _ h)
    · exact hQ.ppuRead mem now _ (hQ.ppuRead mem now _ h)

theorem Watched.loadDot (mem : Buffers) (now s d : Nat) (p : Ppu) {c : Cart} (h : Q c) : Q (p.loadDot mem now s d c).2 := by
  unfold Ppu.loadDot
  split
  · exact hQ.loadUnits mem now s p p.sprites 0 h
  · exact h

theorem Watched.dotStep (mem : Buffers) (now : Nat) (p : Ppu) {c : Cart} (h : Q c) : Q (p.dotStep mem now c).2 := by
  show Q (p.dotActions mem now c).2
  unfold Ppu.dotActions
  split
  · unfold Ppu.visibleDot
    split
    · exact hQ.backgroundDot mem now _ _ (hQ.loadDot mem now _ _ _ h)
    · exact h
  split
  · exact h
  split
  · exact h
  split
  · unfold Ppu.preRenderDot
    split
    · exact hQ.loadDot mem now _ _ _ (hQ.backgroundDot mem now _ _ h)
    · exact h
  · exact h

theorem Watched.runDots (mem : Buffers) (n : Nat) : ∀ (k : Nat) (p : Ppu) {c : Cart}, Q c → Q (runDots mem n k p c).2 := by
  induction n with
  | zero => exact fun _ _ _ h => h
  | succ n ih => exact fun k p c h => ih _ _ (hQ.dotStep mem (k / 4) p h)

theorem Watched.regRead (mem : Buffers) (now k r : Nat) (p : Ppu) {c : Cart} (h : Q c) : Q (p.regRead mem now k r c).2.2 := by
  unfold Ppu.regRead
  split
  · exact h
  · exact h
  · exact hQ.notify _ now (hQ.ppuRead mem now _ h)
  · exact h

theorem Watched.regWrite (mem : Buffers) (now r : Nat) (v : Byte) (p : Ppu) {c : Cart} (h : Q c) : Q (p.regWrite mem now r v c).cart := by
  unfold Ppu.regWrite
  extract_lets q
  split
  case h_6 =>
    unfold Ppu.writeAddr
    split
    · exact hQ.notify _ now h
    · exact h
  case h_7 =>
    unfold Ppu.writeData
    dsimp only
    split
    · exact hQ.notify _ now (hQ now _ c h)
    · exact hQ.notify _ now h
  all_goals exact h

end

theorem maskedIrq_watched : Watched fun c => c.mapper.MaskedIrq := fun now a _ h => h.watch now a

/-! ### The APU -/

/-- The frame sequencer sets its flag only where it is not inhibited (R466). -/
theorem Apu.sequencerStep_maskedIrq {a : Apu} (h : a.seq.MaskedIrq) : a.sequencerStep.seq.MaskedIrq := by
  by_cases hd : a.seq.pendingDelay = 1
  · rw [Apu.sequencerStep_ending hd]
    exact h
  · rw [Apu.sequencerStep_waiting hd]
    intro hi
    have hf := h hi
    simp only [hf, show a.seq.irqInhibit = true from hi, Bool.not_true, Bool.and_false, Bool.or_false]

theorem Apu.MaskedIrq.apuStep {a : Apu} (h : a.MaskedIrq) (cfg : Config) (cyc : Nat) : (a.apuStep cfg cyc).1.MaskedIrq := by
  refine ⟨Apu.sequencerStep_maskedIrq h.1, ?_⟩
  rw [(Apu.apuStep_dmc cfg cyc a).1]
  intro he
  rw [a.dmc.timerStep_fields.1] at he
  exact a.dmc.timerStep_irqFlag.trans (h.2 he)

/-- The end of a sample sets the flag only if it is enabled (R469). -/
theorem Dmc.MaskedIrq.deliver {d : Dmc} (h : d.MaskedIrq) (v : Byte) : (d.deliver v).MaskedIrq := by
  intro he
  rw [(d.deliver_fields v).1] at he
  unfold Dmc.deliver
  dsimp only
  split
  · exact h he
  split
  · split
    · exact h he
    · simp [h he, he]
  · exact h he

/-- A register write sets no flag, and inhibiting or disabling clears it (R461, R462, R464). -/
theorem Apu.MaskedIrq.regWrite {a : Apu} (h : a.MaskedIrq) (cyc r : Nat) (v : Byte) : (a.regWrite cyc r v).1.MaskedIrq := by
  have hdmc : ∀ k, (a.dmc.write k v).MaskedIrq := by
    intro k he
    unfold Dmc.write at he ⊢
    split at he <;> dsimp only at he ⊢
    · rw [he, Bool.and_false]
    all_goals exact h.2 he
  have hseq : (a.seq.write cyc v).MaskedIrq := by
    intro hi
    show (a.seq.irqFlag && !v.getLsbD 6) = false
    rw [show v.getLsbD 6 = true from hi, Bool.not_true, Bool.and_false]
  have henable : (a.writeEnable v).1.MaskedIrq := ⟨h.1, fun _ => Dmc.enable_irqFlag _ _⟩
  unfold Apu.regWrite
  split
  · exact h
  split
  · exact h
  split
  · exact h
  split
  · exact h
  split
  · exact ⟨h.1, hdmc _⟩
  split
  · exact henable
  split
  · exact ⟨hseq, h.2⟩
  · exact h

/-! ### Bus cycles -/

/-- What a write can reach: a memory, a PPU register, the sprite transfer, the controllers' strobe, an APU register, the mapper, or nothing (R69). -/
theorem busTarget_cases {M : State → Prop} (a : Word) (v : Byte) (s : State) (hmem : ∀ m, M { s with mem := m }) (hppu : M (writePpuReg a v s))
    (hdma : M { s with dma := s.dma.startSprite v }) (hpads : M { s with pads := s.pads.writeStrobe v }) (hapu : M (writeApuReg a v s))
    (hmapper : M (writeMapper a v s)) : M (busTarget a v s) := by
  unfold busTarget
  split
  · exact hmem _
  split
  · exact hppu
  split
  · exact hdma
  split
  · exact hpads
  split
  · exact hapu
  split
  · exact hmem s.mem
  split
  · exact hmem _
  · exact hmapper

theorem writeMapper_apu (a : Word) (v : Byte) (s : State) : (writeMapper a v s).apu = s.apu := by
  unfold writeMapper
  split <;> rfl

/-- Every part of a bus cycle but a write keeps the masked sources silent. -/
theorem maskedIrq_parts : PartSteps fun s t => s.MaskedIrqInv → t.MaskedIrqInv where
  refl _ := id
  trans f g := g ∘ f
  cyc _ := id
  advance _ s h := ⟨h.1, h.2.1, maskedIrq_watched.runDots _ _ _ _ h.2.2⟩
  apu s h := by
    rw [State.maskedIrqInv_iff] at h ⊢
    exact ⟨h.1.apuStep s.cfg s.clk.cyc, h.2⟩
  access a s h := by
    refine busAnswer_cases (M := State.MaskedIrqInv) a s (fun _ => h) (fun _ _ => ?_) (fun _ => ⟨fun _ => rfl, h.2⟩) (fun _ _ => h)
    exact ⟨h.1, h.2.1, maskedIrq_watched.regRead _ _ _ _ _ h.2.2⟩
  sample _ := id
  prologue _ := id
  dmc v s h := ⟨h.1, Dmc.MaskedIrq.deliver h.2.1 v, h.2.2⟩
  sprite n s h := by
    unfold spriteDone
    split <;> exact h

/-- So does a write access. -/
theorem busWrite_maskedIrq (a : Word) (v : Byte) (s : State) (h : s.MaskedIrqInv) : (busWrite a v s).MaskedIrqInv := by
  refine busTarget_cases (M := State.MaskedIrqInv) a v { s with dbus := v } (fun _ => h) ?ppu h h ?apu ?mapper
  case ppu => exact ⟨h.1, h.2.1, maskedIrq_watched.regWrite _ _ _ _ _ h.2.2⟩
  case apu =>
    rw [State.maskedIrqInv_iff] at h ⊢
    exact ⟨h.1.regWrite s.clk.cyc (apuRegNumber a) v, h.2⟩
  case mapper =>
    rw [State.maskedIrqInv_iff] at h ⊢
    rw [writeMapper_apu, writeMapper_cart, Cart.romWrite_mapper]
    exact ⟨h.1, Mapper.MaskedIrq.written h.2 s.clk.cyc a v⟩

theorem maskedIrq_keeps : Keeps State.MaskedIrqInv :=
  .mk' (fun hs a => (maskedIrq_parts.cycles fun v s hs => busWrite_maskedIrq _ v s hs).memRead a _ hs)
    (fun hs a v => maskedIrq_parts.memWrite a v (fun s hs => busWrite_maskedIrq a v s hs) _ hs) (fun hs _ _ _ => hs)

/-- Settles O14: dots clock the counter, cycles the sequencer and the sample channel, writes reach their registers;
each sets a flag only where it is allowed. -/
theorem stepKeepsMaskedIrqSilent : Obligations.StepKeepsMaskedIrqSilent :=
  fun _ _ h e => maskedIrq_keeps.step h (fun _ _ hu => hu) e

end Sys2Proof.Machine
end

section
/-! SUPPORT. The interrupt lines: how a sample turns them into flags, and the entry a selected interrupt takes (R346 to R353). -/

namespace Sys2Proof.Machine

/-- Settles O44: the interrupt sequence is two dummy reads at `PC` and then the entry `BRK` shares, without the `B` bit. -/
theorem interruptEntry : Obligations.InterruptEntry := by
  refine ⟨fun s => ?_, fun s hn => if_pos hn, fun s hn => if_neg (by simp [hn])⟩
  have hreads : dummyPc (dummyPc s) = dummyRead s.cpu.pc (dummyRead s.cpu.pc s) := by
    show dummyRead (dummyPc s).cpu.pc (dummyPc s) = _
    rw [dummyPc_cpu]
    rfl
  have hentry := takeException_entry false ((dummyRead_frame s.cpu.pc s).trans (dummyRead_frame s.cpu.pc (dummyRead s.cpu.pc s)))
  rwa [← hreads] at hentry ⊢

theorem State.nmiLine_iff (s : State) : s.nmiLine = true ↔ s.ppu.nmiOccurred = true ∧ s.ppu.ctrl.getLsbD 7 = true := by
  rw [State.nmiLine, Ppu.nmiLine, Bool.and_eq_true]

theorem State.irqLine_iff (s : State) :
    s.irqLine = true ↔ s.apu.seq.irqFlag = true ∨ s.apu.dmc.irqFlag = true ∨ s.cart.mapper.irqLine = true := by
  rw [State.irqLine, Apu.irqLine, Bool.or_eq_true, Bool.or_eq_true, or_assoc]

/-- A rise of the line is what raises the interrupt, and a pending one stays pending. -/
theorem IntUnit.sample_nmi_pending (nmi irq : Bool) (u : IntUnit) :
    (u.sample nmi irq).nmi.pending = true ↔ u.nmi.pending = true ∨ (nmi = true ∧ u.prevNmiLine = false) := by
  simp [IntUnit.sample]

/-- A line that was already asserted when it was last sampled raises nothing. -/
theorem IntUnit.sample_nmi_held (nmi irq : Bool) {u : IntUnit} (hidle : u.nmi = { pending := false, active := false })
    (hheld : u.prevNmiLine = true) : (u.sample nmi irq).nmi = { pending := false, active := false } := by
  simp [IntUnit.sample, hidle, hheld]

/-- Settles O49: the sample shifts the pending flags, and the lines are the flags of the devices. -/
theorem interruptSampling : Obligations.InterruptSampling := by
  refine ⟨fun s => ⟨rfl, rfl, ?_, ?_⟩, fun s hidle hheld => IntUnit.sample_nmi_held _ _ hidle hheld, fun a s => rfl⟩
  · rw [sampleLines_int, IntUnit.sample_nmi_pending, State.nmiLine_iff]
  · show (s.irqLine && !s.cpu.p.i) = true ↔ _
    rw [Bool.and_eq_true, State.irqLine_iff, Bool.not_eq_true']

end Sys2Proof.Machine
end

section
/-! SUPPORT. The serial reads of the controller ports (R371). -/

namespace Sys2Proof.Machine

/-- A port's shift register after `k` serial reads. -/
def serialShift (strobe : Bool) (buttons : Byte) : Nat → Byte → Byte
  | 0, shift => shift
  | k + 1, shift => serialShift strobe buttons k (padShift strobe buttons shift)

theorem Pads.after_eq (k : Nat) (p : Pads) : Pads.after k p = { p with shift0 := serialShift p.strobe p.buttons0 k p.shift0 } := by
  induction k generalizing p with
  | zero => rfl
  | succ k ih => exact ih _

theorem Pads.after1_eq (k : Nat) (p : Pads) : Pads.after1 k p = { p with shift1 := serialShift p.strobe p.buttons1 k p.shift1 } := by
  induction k generalizing p with
  | zero => rfl
  | succ k ih => exact ih _

/-- With the strobe low a read shifts right and a one comes in at bit 7. -/
theorem padShift_bit (buttons shift : Byte) (i : Nat) (hi : i < 8) :
    (padShift false buttons shift).getLsbD i = (decide (i = 7) || shift.getLsbD (i + 1)) := by
  have hone : (0x80 : Byte).getLsbD i = decide (i = 7) := by
    interval_cases i <;> rfl
  simp only [padShift, Bool.false_eq_true, if_false, BitVec.getLsbD_or, BitVec.getLsbD_ushiftRight, hone, Nat.add_comm 1 i,
    Bool.or_comm]

/-- With the strobe low, `k` reads bring bit `k` to the front, and ones after bit 7. -/
theorem serialShift_front (buttons shift : Byte) (k i : Nat) (hi : i < 8) :
    (serialShift false buttons k shift).getLsbD i = (decide (8 ≤ i + k) || shift.getLsbD (i + k)) := by
  induction k generalizing shift with
  | zero => simp [serialShift, hi]
  | succ k ih =>
    rw [serialShift, ih]
    by_cases hk : i + k < 8
    · have hold : decide (8 ≤ i + k) = false := by simp; omega
      have hnew : decide (8 ≤ i + (k + 1)) = decide (i + k = 7) := by rw [decide_eq_decide]; omega
      rw [padShift_bit _ _ _ hk, hold, hnew, Bool.false_or, Nat.add_assoc]
    · have hold : decide (8 ≤ i + k) = true := by simp; omega
      have hnew : decide (8 ≤ i + (k + 1)) = true := by simp; omega
      rw [hold, hnew, Bool.true_or, Bool.true_or]

/-- The bit a port answers after `k` reads, the strobe having gone high and low. -/
theorem padBit_serial (buttons : Byte) (k : Nat) :
    padBit false buttons (serialShift false buttons k buttons) = if k < 8 then (if buttons.getLsbD k = true then 1 else 0) else 1 := by
  rw [padBit, pick, if_neg Bool.false_ne_true, serialShift_front _ _ _ _ (by decide), Nat.zero_add]
  by_cases hk : k < 8
  · simp [hk, Nat.not_le.mpr hk, bitAt]
  · simp [hk, Nat.not_lt.mp hk, bitAt]

/-- Settles O57: both ports shift alike, each its own register, and while the strobe is high the bit comes from the buttons. -/
theorem controllerReads : Obligations.ControllerReads := by
  refine ⟨fun p v w k hv hw => ?_, fun p v k hv => ?_, fun p => ⟨rfl, rfl⟩⟩
  · have hstrobed : (p.writeStrobe v).writeStrobe w = { p with strobe := false, shift0 := p.buttons0, shift1 := p.buttons1 } := by
      simp only [Pads.writeStrobe, hv, hw, if_true, Bool.false_eq_true, if_false]
    rw [hstrobed, Pads.after_eq, Pads.after1_eq]
    exact ⟨padBit_serial p.buttons0 k, padBit_serial p.buttons1 k⟩
  · have hstrobed : p.writeStrobe v = { p with strobe := true, shift0 := p.buttons0, shift1 := p.buttons1 } := by
      simp only [Pads.writeStrobe, hv, if_true]
    rw [hstrobed, Pads.after_eq, Pads.after1_eq]
    exact ⟨rfl, rfl⟩

end Sys2Proof.Machine
end

section
/-! SUPPORT. A store to a mapper's registers, from `$8000` on (R523). -/

namespace Sys2Proof.Machine

theorem exec_staAbs (a : Word) (s : State) : exec (.staAbs a) s = .next (memWrite a s.cpu.a s) := rfl

end Sys2Proof.Machine
end

section
/-! SUPPORT. MMC1's serial port (R531). -/

namespace Sys2Proof.Machine

theorem Mmc1.ignores_iff (cyc : Nat) (r : Mmc1) : r.ignores cyc = true ↔ cyc = r.lastWriteCyc + 1 := decide_eq_true_iff

/-- Bit 7 resets the port and fixes the last PRG bank. -/
theorem Mmc1.load_reset {v : Byte} (h : v.getLsbD 7 = true) (n : Nat) (a : Word) (r : Mmc1) :
    r.load n a v = { r with shiftReg := 0, shiftCount := 0, control := r.control ||| 0x0C, lastWriteCyc := n } := by
  unfold Mmc1.load
  rw [if_pos h]

/-- The shifter after one more bit. -/
def Mmc1.shifted (v : Byte) (r : Mmc1) : BitVec 5 := r.shiftReg >>> 1 ||| (if v.getLsbD 0 then 0x10 else 0)

/-- The first four writes only shift. -/
theorem Mmc1.load_shift {v : Byte} (h : v.getLsbD 7 = false) {r : Mmc1} (hc : r.shiftCount + 1 ≠ 5) (n : Nat) (a : Word) :
    r.load n a v = { r with shiftReg := r.shifted v, shiftCount := r.shiftCount + 1, lastWriteCyc := n } := by
  unfold Mmc1.load
  rw [if_neg (ne_true_of_eq_false h)]
  exact if_neg hc

/-- The fifth write loads the register its address selects. -/
theorem Mmc1.load_fifth {v : Byte} (h : v.getLsbD 7 = false) {r : Mmc1} (hc : r.shiftCount + 1 = 5) (n : Nat) (a : Word) :
    r.load n a v = { r with
      shiftReg := 0, shiftCount := 0, lastWriteCyc := n
      control := if a.toNat / 8192 % 4 = 0 then r.shifted v else r.control
      chr0 := if a.toNat / 8192 % 4 = 1 then r.shifted v else r.chr0
      chr1 := if a.toNat / 8192 % 4 = 2 then r.shifted v else r.chr1
      prg := if a.toNat / 8192 % 4 = 3 then r.shifted v else r.prg } := by
  unfold Mmc1.load
  rw [if_neg (ne_true_of_eq_false h)]
  dsimp only
  rw [if_pos hc]
  have hlt : a.toNat / 8192 % 4 < 4 := Nat.mod_lt _ (by decide)
  generalize a.toNat / 8192 % 4 = k at hlt
  interval_cases k <;> rfl

/-- No write leaves the cycle of the last write anything but its own. -/
theorem Mmc1.load_lastWriteCyc (n : Nat) (a : Word) (v : Byte) (r : Mmc1) : (r.load n a v).lastWriteCyc = n := by
  cases h : v.getLsbD 7
  · by_cases hc : r.shiftCount + 1 = 5
    · rw [Mmc1.load_fifth h hc]
    · rw [Mmc1.load_shift h hc]
  · rw [Mmc1.load_reset h]

/-- A new bit enters at the top and the rest moves down. -/
theorem Mmc1.shifted_toNat (v : Byte) (r : Mmc1) : (r.shifted v).toNat = r.shiftReg.toNat / 2 + 16 * (v.getLsbD 0).toNat := by
  have hall : ∀ (x : BitVec 5) (b : Bool), (x >>> 1 ||| if b then 0x10 else 0).toNat = x.toNat / 2 + 16 * b.toNat := by
    decide
  exact hall r.shiftReg (v.getLsbD 0)

/-- Five bits, the first of them lowest. -/
def fiveBits (b0 b1 b2 b3 b4 : Bool) : BitVec 5 :=
  BitVec.ofNat 5 (b0.toNat + 2 * b1.toNat + 4 * b2.toNat + 8 * b3.toNat + 16 * b4.toNat)

theorem Mmc1.load_five {v0 v1 v2 v3 v4 : Byte} (h0 : v0.getLsbD 7 = false) (h1 : v1.getLsbD 7 = false) (h2 : v2.getLsbD 7 = false)
    (h3 : v3.getLsbD 7 = false) (h4 : v4.getLsbD 7 = false) {r : Mmc1} (hc : r.shiftCount = 0) (n0 n1 n2 n3 n4 : Nat) (a0 a1 a2 a3 a : Word) :
    let loaded := fiveBits (v0.getLsbD 0) (v1.getLsbD 0) (v2.getLsbD 0) (v3.getLsbD 0) (v4.getLsbD 0)
    ((((r.load n0 a0 v0).load n1 a1 v1).load n2 a2 v2).load n3 a3 v3).load n4 a v4 = { r with
      shiftReg := 0, shiftCount := 0, lastWriteCyc := n4
      control := if a.toNat / 8192 % 4 = 0 then loaded else r.control
      chr0 := if a.toNat / 8192 % 4 = 1 then loaded else r.chr0
      chr1 := if a.toNat / 8192 % 4 = 2 then loaded else r.chr1
      prg := if a.toNat / 8192 % 4 = 3 then loaded else r.prg } := by
  intro loaded
  rw [Mmc1.load_shift h0 (by simp [hc]), Mmc1.load_shift h1 (by simp [hc]), Mmc1.load_shift h2 (by simp [hc]),
    Mmc1.load_shift h3 (by simp [hc]), Mmc1.load_fifth h4 (by simp [hc])]
  generalize hz : Mmc1.shifted v4 _ = full
  have hfull : full = loaded := by
    apply BitVec.eq_of_toNat_eq
    rw [← hz]
    simp only [Mmc1.shifted_toNat, loaded, fiveBits, BitVec.toNat_ofNat]
    have hr := r.shiftReg.isLt
    have := (v0.getLsbD 0).toNat_lt
    have := (v1.getLsbD 0).toNat_lt
    have := (v2.getLsbD 0).toNat_lt
    have := (v3.getLsbD 0).toNat_lt
    have := (v4.getLsbD 0).toNat_lt
    omega
  rw [hfull]

/-- What a write leaves as the cycle of the last write, ignored or not. -/
theorem Mmc1.written_lastWriteCyc (n : Nat) (a : Word) (v : Byte) (r : Mmc1) :
    (if r.ignores n then { r with lastWriteCyc := n } else r.load n a v).lastWriteCyc = n := by
  split
  · rfl
  · exact Mmc1.load_lastWriteCyc n a v r

/-- The write of the cycle after a write is ignored. -/
theorem Cart.romWrite_ignored {c : Cart} {q : Mmc1} (hq : c.mapper = .mmc1 q) {n : Nat} (hn : n = q.lastWriteCyc + 1) (a : Word) (v : Byte) :
    c.romWrite n a v = (c.withMapper (.mmc1 { q with lastWriteCyc := n }), true) := by
  unfold Cart.romWrite
  rw [hq]
  exact if_pos ((Mmc1.ignores_iff n q).mpr hn)

/-- Settles O59: what the serial port makes of one write, of two in a row, of five, and of a store that reaches it. -/
theorem mmc1SerialLoad : Obligations.Mmc1SerialLoad := by
  refine ⟨fun c r n a b v w hr => ?_, fun r n a v h => Mmc1.load_reset h n a r, ?_, fun a s r hf hi hr ha => ?_⟩
  · have hq := c.romWrite_mapper n a v
    rw [hr] at hq
    have hign := Cart.romWrite_ignored hq (n := n + 1) (by rw [Mmc1.written_lastWriteCyc]) b w
    exact ⟨congrArg Prod.snd hign, _, hq, congrArg Prod.fst hign⟩
  · intro r n0 n1 n2 n3 n4 a0 a1 a2 a3 a v0 v1 v2 v3 v4 hc h0 h1 h2 h3 h4 q loaded
    have hq : q = _ := Mmc1.load_five h0 h1 h2 h3 h4 hc n0 n1 n2 n3 n4 a0 a1 a2 a3 a
    rw [hq]
    exact ⟨rfl, rfl, rfl, rfl, rfl, rfl⟩
  · obtain ⟨hok, hinv⟩ := memWrite_ok hi a s.cpu.a
    refine ⟨_, exec_staAbs a s, hinv, hok.trans hf, memWrite_mem_high hf ha _, memWrite_cpu _ _ _, ?_⟩
    have hign : r.ignores (s.clk.cyc + 1) = decide (s.clk.cyc = r.lastWriteCyc) := by
      rw [Mmc1.ignores, decide_eq_decide]
      omega
    rw [memWrite_written hf hi ha _ (fun q hq => by rw [hr] at hq; cases hq), hr, Mapper.written, hign]
    simp only [decide_eq_true_eq]

end Sys2Proof.Machine
end

section
/-! SUPPORT. MMC3's scanline counter and registers (R535, R540, R541, R545). -/

namespace Sys2Proof.Machine

/-- The counter and the reload request after a clock, before the flag (R541). -/
def Mmc3.counted (r : Mmc3) : Mmc3 :=
  if r.irqCounter = 0 ∨ r.irqReload = true then { r with irqCounter := r.irqLatch, irqReload := false } else { r with irqCounter := r.irqCounter - 1 }

theorem Mmc3.clockCounter_eq (r : Mmc3) :
    r.clockCounter = { r.counted with irqFlag := r.irqFlag || (decide (r.counted.irqCounter = 0) && r.irqEnabled) } := by
  have hkeep : r.counted.irqFlag = r.irqFlag ∧ r.counted.irqEnabled = r.irqEnabled := by
    unfold Mmc3.counted
    split <;> exact ⟨rfl, rfl⟩
  obtain ⟨hflag, henabled⟩ := hkeep
  show (if r.counted.irqCounter = 0 ∧ r.counted.irqEnabled = true then { r.counted with irqFlag := true } else r.counted) = _
  rw [henabled]
  split
  case isTrue h => simp [h.1, h.2]
  case isFalse h =>
    have hnone : (decide (r.counted.irqCounter = 0) && r.irqEnabled) = false := by simpa using h
    rw [hnone, Bool.or_false, ← hflag]

theorem Mmc3.counted_of_reload {r : Mmc3} (h : r.irqCounter = 0 ∨ r.irqReload = true) :
    r.counted = { r with irqCounter := r.irqLatch, irqReload := false } := if_pos h

theorem Mmc3.counted_of_count {r : Mmc3} (hc : r.irqCounter ≠ 0) (hr : r.irqReload = false) :
    r.counted = { r with irqCounter := r.irqCounter - 1 } := by
  refine if_neg ?_
  rintro (h | h)
  · exact hc h
  · exact ne_true_of_eq_false hr h

/-- A clock changes none of the registers a write sets, and nothing of the watcher's. -/
theorem Mmc3.counted_registers (r : Mmc3) :
    r.counted.irqLatch = r.irqLatch ∧ r.counted.irqEnabled = r.irqEnabled ∧ r.counted.regs = r.regs ∧ r.counted.bankSelect = r.bankSelect ∧
      r.counted.mirror = r.mirror ∧ r.counted.a12LowSince = r.a12LowSince := by
  unfold Mmc3.counted
  split <;> exact ⟨rfl, rfl, rfl, rfl, rfl, rfl⟩

theorem setNth_eq_set (v : Byte) (k : Nat) (l : List Byte) : setNth v k l = l.set k v := by
  induction l generalizing k with
  | nil => cases k <;> rfl
  | cons b l ih =>
    cases k with
    | zero => rfl
    | succ k => exact congrArg (b :: ·) (ih k)

theorem lsb_eq_true_iff (a : Word) : a.getLsbD 0 = true ↔ a.toNat % 2 = 1 := by
  rw [BitVec.getLsbD, Nat.testBit_zero, decide_eq_true_eq]

/-- A register write by its address window and parity (R535). -/
theorem Mmc3.load_window (a : Word) (v : Byte) (r : Mmc3) :
    r.load a v =
      match a.toNat / 8192 % 4 with
      | 0 => if a.toNat % 2 = 0 then { r with bankSelect := v } else { r with regs := r.regs.set (r.bankSelect.toNat % 8) v }
      | 1 => if a.toNat % 2 = 0 then { r with mirror := v.getLsbD 0 } else { r with ramProtect := v }
      | 2 => if a.toNat % 2 = 0 then { r with irqLatch := v } else { r with irqCounter := 0, irqReload := true }
      | _ => if a.toNat % 2 = 0 then { r with irqEnabled := false, irqFlag := false } else { r with irqEnabled := true } := by
  have hsel : (r.bankSelect &&& 7).toNat = r.bankSelect.toNat % 8 := toNat_lowField r.bankSelect 3 (by decide)
  have hlt : a.toNat / 8192 % 4 < 4 := Nat.mod_lt _ (by decide)
  unfold Mmc3.load
  rw [setNth_eq_set, hsel]
  generalize a.toNat / 8192 % 4 = k at hlt
  cases hb : a.getLsbD 0
  · have he : a.toNat % 2 = 0 := by
      have := (lsb_eq_true_iff a).not.mp (ne_true_of_eq_false hb)
      omega
    interval_cases k <;> exact (if_pos he).symm
  · have ho : ¬ a.toNat % 2 = 0 := by
      have := (lsb_eq_true_iff a).mp hb
      omega
    interval_cases k <;> exact (if_neg ho).symm

/-- What a register write does to the banking registers depends on the banking registers alone. -/
theorem Mmc3.load_banks {q r : Mmc3} (h : (Mapper.mmc3 q).banks = (Mapper.mmc3 r).banks) (a : Word) (v : Byte) :
    (Mapper.mmc3 (q.load a v)).banks = (Mapper.mmc3 (r.load a v)).banks := by
  simp only [Mapper.banks, Mapper.mmc3.injEq, Mmc3.mk.injEq, and_true] at h
  obtain ⟨hselect, hregs, hmirror, hprotect⟩ := h
  unfold Mmc3.load
  rw [hselect, hregs]
  split <;> simp only [Mapper.banks, hmirror, hprotect]

theorem Mapper.mmc3_of_banks {m : Mapper} {r : Mmc3} (h : m.banks = (Mapper.mmc3 r).banks) :
    ∃ q, m = .mmc3 q ∧ (Mapper.mmc3 q).banks = (Mapper.mmc3 r).banks := by
  cases m with
  | mmc3 q => exact ⟨q, rfl, h⟩
  | _ => cases h

/-- MMC3 after a store from `$8000` on: the registers that banking depends on are as the write says; the dots of the cycle may clock the counter. -/
theorem memWrite_mmc3 {s : State} (hs : s.fault = none) (hi : s.CartInv) {a : Word} (h : 0x8000 ≤ a.toNat) (v : Byte) {r : Mmc3}
    (hr : s.cart.mapper = .mmc3 r) :
    ∃ q, (memWrite a v s).cart.mapper = .mmc3 q ∧ (Mapper.mmc3 q).banks = (Mapper.mmc3 (r.load a v)).banks := by
  have hbefore : s.atWrite.cart.mapper.banks = (Mapper.mmc3 r).banks := by
    rw [← hr]
    exact congrArg Cart.mapper (atWrite_banks s)
  obtain ⟨p, hp, hpb⟩ := Mapper.mmc3_of_banks hbefore
  refine Mapper.mmc3_of_banks ?_
  calc (memWrite a v s).cart.mapper.banks
      = (s.atWrite.cart.romWrite (s.clk.cyc + 1) a v).1.mapper.banks := congrArg Cart.mapper (memWrite_mapper hs hi h v)
    _ = (Mapper.mmc3 (p.load a v)).banks := by rw [Cart.romWrite_mapper, hp, Mapper.written]
    _ = (Mapper.mmc3 (r.load a v)).banks := Mmc3.load_banks hpb a v

/-- Settles O60: the watch by whether it clocks, the register write by its window, and a store by its register write, which the dots around it leave alone. -/
theorem mmc3ScanlineCounter : Obligations.Mmc3ScanlineCounter := by
  refine ⟨fun r now a => ?_, fun r a v => ?_, fun a s r hf hi hr ha => ?_⟩
  · intro q clocked
    by_cases hc : r.Clocks now a
    · have hq : q = _ := Mmc3.watch_eq_of_clocks hc
      obtain ⟨hlow, hhigh, -⟩ := id hc
      obtain ⟨hlatch, henabled, hregs, hselect, hmirror, hsince⟩ := r.counted_registers
      rw [hq, r.clockCounter_eq]
      refine ⟨hhigh.symm, ?_, fun h => absurd hc h, fun _ h => ?_, fun _ h h' => ?_, fun _ => ?_, hlatch, henabled, hregs, hselect, hmirror⟩
      · rw [if_neg (fun h => ne_true_of_eq_false hlow h.1)]
        exact hsince
      · rw [Mmc3.counted_of_reload h]
        exact ⟨rfl, rfl⟩
      · rw [Mmc3.counted_of_count h h']
        exact ⟨rfl, h'⟩
      · simp only [Bool.or_eq_true, Bool.and_eq_true, decide_eq_true_eq]
    · have hq : q = _ := Mmc3.watch_eq_of_not_clocks hc
      rw [hq]
      exact ⟨rfl, rfl, fun _ => ⟨rfl, rfl, rfl⟩, fun h => absurd h hc, fun h => absurd h hc, fun h => absurd h hc, rfl, rfl, rfl, rfl, rfl⟩
  · have hlt := a.isLt
    rw [Mmc3.load_window]
    refine ⟨fun hl hu => ?_, fun hl hu => ?_, fun hl hu => ?_, fun hl => ?_⟩
    · simp only [show a.toNat / 8192 % 4 = 0 by omega]
    · simp only [show a.toNat / 8192 % 4 = 1 by omega]
    · simp only [show a.toNat / 8192 % 4 = 2 by omega]
    · simp only [show a.toNat / 8192 % 4 = 3 by omega]
  · obtain ⟨hok, hinv⟩ := memWrite_ok hi a s.cpu.a
    obtain ⟨q, hq, hb⟩ := memWrite_mmc3 hf hi ha s.cpu.a hr
    exact ⟨_, q, exec_staAbs a s, hinv, hok.trans hf, memWrite_mem_high hf ha _, memWrite_cpu _ _ _, hq, hb⟩

end Sys2Proof.Machine
end

section
/-! SUPPORT. Power-on: the images that start, the state the reset sequence leaves, and what a later reboot looks at (R342, R528, R529, R560 to R563). -/

namespace Sys2Proof.Machine

/-! ### What a cartridge keeps of its image -/

/-- A cartridge as power-on finds it: what came from the image, the mapper's registers at power-on, no tables yet (R521, R563). -/
def Cart.image (c : Cart) : Cart :=
  { c with mapper := c.mapper.powerOn, mirroring := .horizontal, cpuSpace := Space.unmapped 64, ppuSpace := Space.unmapped 16 }

/-- `Remap` does not look at the tables it replaces. -/
theorem Cart.remap_replaced (c : Cart) (mi : Mirroring) (cs ps : Space) :
    ({ c with mirroring := mi, cpuSpace := cs, ppuSpace := ps } : Cart).remap = c.remap := by
  have hcalls : ({ c with mirroring := mi, cpuSpace := cs, ppuSpace := ps } : Cart).SameCalls c := by
    obtain ⟨m, _, _, _, _, _, _, _, _, _⟩ := c
    cases m <;> exact ⟨rfl, rfl, rfl, rfl⟩
  unfold Cart.remap
  rw [hcalls.cpu, hcalls.ppu, hcalls.mirroring, Cart.mapAll_congr hcalls.len, Cart.mapAll_congr hcalls.len]

theorem Cart.image_remap (c : Cart) : c.image.remap = ({ c with mapper := c.mapper.powerOn } : Cart).remap :=
  ({ c with mapper := c.mapper.powerOn } : Cart).remap_replaced _ _ _

/-- A remapping keeps the image. -/
theorem Cart.remap_image {c d : Cart} (h : c.remap = some d) : d.image = c.image := by
  unfold Cart.remap at h
  split at h
  · cases h
    rfl
  · cases h

theorem Cart.tryRemap_image (c : Cart) : c.tryRemap.1.image = c.image := by
  unfold Cart.tryRemap
  split
  · exact Cart.remap_image ‹_›
  · rfl

theorem Mapper.powerOn_powerOn (m : Mapper) : m.powerOn.powerOn = m.powerOn := by
  cases m <;> rfl

theorem Mapper.powerOn_banks (m : Mapper) : m.banks.powerOn = m.powerOn := by
  cases m <;> rfl

/-- Two mappers of one kind make one image. -/
theorem Cart.image_withMapper {c : Cart} {m : Mapper} (h : m.powerOn = c.mapper.powerOn) : (c.withMapper m).image = c.image := by
  unfold Cart.image Cart.withMapper
  rw [h]

/-- The image is part of what the address-line watch leaves alone. -/
theorem Cart.image_of_bankView {c d : Cart} (h : d.bankView = c.bankView) : d.image = c.image := by
  have hview : ∀ e : Cart, e.bankView.image = e.image := fun e => Cart.image_withMapper (Mapper.powerOn_banks e.mapper)
  rw [← hview d, h, hview c]

/-- A mapper register write keeps the image (R523). -/
theorem Cart.romWrite_image (c : Cart) (cyc : Nat) (a : Word) (v : Byte) : (c.romWrite cyc a v).1.image = c.image := by
  unfold Cart.romWrite
  split <;> rename_i hm
  · rfl
  · split
    · exact Cart.image_withMapper (by rw [hm]; rfl)
    · exact (Cart.tryRemap_image _).trans (Cart.image_withMapper (by rw [hm]; rfl))
  all_goals exact (Cart.tryRemap_image _).trans (Cart.image_withMapper (by rw [hm]; rfl))

/-! ### What a reboot looks at (R563) -/

/-- The buffers of a reboot: ROM and trainer as they are, RAM from the launch inputs. -/
def rebootBuffers (l : Launch) (c : Cart) (m : Buffers) : Buffers :=
  { ram := l.ram, vram := l.vram, prg := m.prg, chr := if c.chrIsRam then l.chrRam else m.chr, prgRam := l.prgRamWith c.trainer }

/-- A reboot is power-on with the image. -/
theorem reboot_eq (l : Launch) (s : State) : reboot l s = powerOn s.cfg l s.cart.image (rebootBuffers l s.cart.image s.mem) := by
  unfold powerOn
  rw [Cart.image_remap]
  rfl

/-- `t` is a machine with the image and the launch parameters of `s`. -/
structure SameImage (s t : State) : Prop where
  rom : SameRom s t
  cfg : t.cfg = s.cfg
  image : t.cart.image = s.cart.image

theorem SameImage.refl {s : State} (h : s.CartInv) : SameImage s s := ⟨⟨h, rfl, fun _ => rfl, rfl⟩, rfl, rfl⟩

theorem SameImage.reboot_eq {s t : State} (h : SameImage s t) (l : Launch) : reboot l t = reboot l s := by
  have hbuf : rebootBuffers l s.cart.image t.mem = rebootBuffers l s.cart.image s.mem := by
    unfold rebootBuffers
    rw [h.rom.prg]
    cases hr : s.cart.image.chrIsRam
    · rw [h.rom.chr hr]
    · rfl
  rw [Machine.reboot_eq, Machine.reboot_eq, h.cfg, h.image, hbuf]

theorem memWrite_image {s : State} (hi : s.CartInv) (a : Word) (v : Byte) : (memWrite a v s).cart.image = s.cart.image := by
  cases hf : s.fault with
  | some r => rw [memWrite_faulted (by rw [hf]; rfl)]
  | none =>
    by_cases h : a.toNat < 0x8000
    · exact Cart.image_of_bankView ((memWrite_frame a v s).banks h)
    · calc (memWrite a v s).cart.image
          = (s.atWrite.cart.romWrite (s.clk.cyc + 1) a v).1.image := Cart.image_of_bankView (memWrite_mapper hf hi (by omega) v)
        _ = s.atWrite.cart.image := Cart.romWrite_image _ _ _ _
        _ = s.cart.image := Cart.image_of_bankView (atWrite_banks s)

theorem sameImage_keeps (s : State) : Keeps (SameImage s) :=
  .mk' (fun {t} h a =>
      have f := memRead_frame a t
      ⟨(sameRom_keeps s).read h.rom a, f.cfg.trans h.cfg, (Cart.image_of_bankView f.banks).trans h.image⟩)
    (fun {t} h a v => ⟨h.rom.write a v, (memWrite_cfg a v t).trans h.cfg, (memWrite_image h.rom.legal a v).trans h.image⟩)
    (fun h _ _ _ => ⟨⟨h.rom.legal, h.rom.prg, h.rom.chr, h.rom.chrUnits⟩, h.cfg, h.image⟩)

/-- A fault record is no part of the image. -/
theorem SameImage.setFault {s t : State} (h : SameImage s t) (r : Option Fault) : SameImage s { t with fault := r } :=
  ⟨⟨h.rom.legal, h.rom.prg, h.rom.chr, h.rom.chrUnits⟩, h.cfg, h.image⟩

theorem SameImage.step {s t : State} (hi : s.CartInv) (h : step s = .next t) : SameImage s t :=
  (sameImage_keeps s).step (.refl hi) (fun _ _ hu => hu.setFault _) h

theorem SameImage.of_untouched {s t : State} (hi : s.CartInv) (h : Untouched s t) : SameImage s t :=
  ⟨⟨State.mapped_of_banks h.banks hi, congrArg Buffers.prg h.mem, fun _ => congrArg Buffers.chr h.mem, (Cart.units_of_bankView h.banks).2⟩,
    h.cfg, Cart.image_of_bankView h.banks⟩

theorem SameImage.trans {s t u : State} (h : SameImage s t) (k : SameImage t u) : SameImage s u := by
  refine ⟨⟨k.rom.legal, k.rom.prg.trans h.rom.prg, fun hr => ?_, k.rom.chrUnits.trans h.rom.chrUnits⟩, k.cfg.trans h.cfg, k.image.trans h.image⟩
  have hrt : t.cart.chrIsRam = false := by
    unfold Cart.chrIsRam at hr ⊢
    rw [h.rom.chrUnits]
    exact hr
  exact (k.rom.chr hrt).trans (h.rom.chr hr)

/-- A warm reset keeps the image (R562). -/
theorem warmReset_sameImage {s : State} (hi : s.CartInv) : SameImage s (warmReset s) := by
  unfold warmReset
  split
  case h_1 c _ hc =>
    have himage : c.image = s.cart.image := (Cart.remap_image hc).trans (Cart.image_withMapper (Mapper.powerOn_powerOn _))
    have hlegal : (resetValues c s).CartInv := ⟨(Cart.remap_same hc).2.trans hi.1, Cart.remap_mapped hc⟩
    have hvalues : SameImage s (resetValues c s) := ⟨⟨hlegal, rfl, fun _ => rfl, (Cart.remap_units hc).2⟩, rfl, himage⟩
    exact hvalues.trans (.of_untouched hlegal (resetSequence_untouched _))
  case h_2 => exact (SameImage.refl hi).setFault _
  case h_3 => exact .refl hi

/-! ### The header (R528, R529) -/

theorem mapperOf_isSome_iff (n : Nat) : (mapperOf n).isSome = true ↔ n ∈ [0, 1, 2, 3, 4, 7] := by
  unfold mapperOf
  split <;> simp_all

/-- A mapper starts with its registers at their power-on values. -/
theorem mapperOf_powerOn {n : Nat} {m : Mapper} (h : mapperOf n = some m) : m.powerOn = m := by
  unfold mapperOf at h
  split at h <;> cases h <;> rfl

/-- One of the bytes 8 to 15 is not zero. -/
theorem extendedBytes_iff (rom : List Byte) :
    ((rom.drop 8).take 8).any (fun b => decide (b ≠ 0)) = true ↔ ∃ k, 8 ≤ k ∧ k < 16 ∧ imageByte rom k ≠ 0 := by
  rw [List.any_eq_true]
  constructor
  · rintro ⟨b, hb, hne⟩
    obtain ⟨i, hi⟩ := List.mem_iff_getElem?.mp hb
    rw [List.getElem?_take, List.getElem?_drop] at hi
    split at hi
    case isTrue hlt =>
      refine ⟨8 + i, by omega, by omega, ?_⟩
      rw [imageByte, List.getD_eq_getElem?_getD, hi]
      exact of_decide_eq_true hne
    case isFalse => cases hi
  · rintro ⟨k, hl, hu, hne⟩
    rw [imageByte, List.getD_eq_getElem?_getD] at hne
    cases hk : rom[k]? with
    | none => rw [hk] at hne; exact absurd rfl hne
    | some b =>
      rw [hk] at hne
      refine ⟨b, List.mem_iff_getElem?.mpr ⟨k - 8, ?_⟩, decide_eq_true hne⟩
      rw [List.getElem?_take, if_pos (by omega), List.getElem?_drop, show 8 + (k - 8) = k by omega, hk]

theorem Header.read_extended (rom : List Byte) :
    (Header.read rom).extended = true ↔ (imageByte rom 7).toNat / 4 % 4 = 2 ∧ ∃ k, 8 ≤ k ∧ k < 16 ∧ imageByte rom k ≠ 0 := by
  rw [← extendedBytes_iff]
  show (decide _ && _) = true ↔ _
  rw [Bool.and_eq_true, decide_eq_true_eq]

theorem Header.ok_iff (rom : List Byte) (h : Header) :
    h.ok rom = true ↔ rom.take 4 = [0x4E, 0x45, 0x53, 0x1A] ∧ 1 ≤ h.prgUnits ∧ h.imageLen ≤ rom.length ∧ ¬ h.extended = true := by
  simp only [Header.ok, Bool.and_eq_true, decide_eq_true_eq, Bool.not_eq_true', Bool.not_eq_true, and_assoc, and_comm (a := h.extended = false)]

/-! ### The state that power-on leaves -/

/-- The image is accepted: its header is well formed, its mapper `m` is supported, and `c` is its cartridge, mapped. -/
structure Accepted (rom : List Byte) (m : Mapper) (c : Cart) : Prop where
  ok : (Header.read rom).ok rom = true
  mapper : mapperOf (Header.read rom).mapperNumber = some m
  remap : ((Header.read rom).cart rom m).remap = some c

/-- The machine that an accepted image starts as: the reset sequence from the power-on values (R560). -/
def startedAs (cfg : Config) (l : Launch) (rom : List Byte) (c : Cart) : State :=
  resetSequence (powerOnState cfg l c ((Header.read rom).buffers rom l))

variable {cfg : Config} {l : Launch} {rom : List Byte} {m : Mapper} {c : Cart}

theorem powerOn_eq {d : Cart} {b : Buffers} (h : c.remap = some d) : powerOn cfg l c b = some (resetSequence (powerOnState cfg l d b)) := by
  unfold powerOn
  rw [h]

theorem Accepted.init (h : Accepted rom m c) (cfg : Config) (l : Launch) : initMachine cfg l rom = .ok (startedAs cfg l rom c) := by
  unfold initMachine startedAs
  dsimp only
  rw [if_pos h.ok, h.mapper]
  dsimp only
  rw [powerOn_eq h.remap]

/-- Every image with a well-formed header and a supported mapper is accepted. -/
theorem accepted_of_ok (hok : (Header.read rom).ok rom = true) (hm : mapperOf (Header.read rom).mapperNumber = some m) :
    ∃ c, Accepted rom m c := by
  have hsized : ((Header.read rom).cart rom m).sized = true := decide_eq_true ((Header.ok_iff rom _).mp hok).2.1
  obtain ⟨c, hc⟩ := Cart.remap_isSome hsized
  exact ⟨c, hok, hm, hc⟩

theorem initMachine_malformed (h : (Header.read rom).ok rom = false) (cfg : Config) (l : Launch) : initMachine cfg l rom = .error .configError := by
  unfold initMachine
  exact if_neg (ne_true_of_eq_false h)

theorem initMachine_unsupported (h : mapperOf (Header.read rom).mapperNumber = none) (cfg : Config) (l : Launch) :
    initMachine cfg l rom = .error .configError := by
  unfold initMachine
  dsimp only
  rw [h]
  exact ite_self _

/-- An image is accepted, or it is refused with `ConfigError`. -/
theorem initMachine_cases (cfg : Config) (l : Launch) (rom : List Byte) :
    initMachine cfg l rom = .error .configError ∨ ∃ m c, Accepted rom m c ∧ initMachine cfg l rom = .ok (startedAs cfg l rom c) := by
  cases hok : (Header.read rom).ok rom with
  | false => exact .inl (initMachine_malformed hok cfg l)
  | true =>
    cases hm : mapperOf (Header.read rom).mapperNumber with
    | none => exact .inl (initMachine_unsupported hm cfg l)
    | some m =>
      obtain ⟨c, hc⟩ := accepted_of_ok hok hm
      exact .inr ⟨m, c, hc, hc.init cfg l⟩

/-- A machine that starts is the one of an accepted image. -/
theorem initMachine_started {s : State} (h : initMachine cfg l rom = .ok s) : ∃ m c, Accepted rom m c ∧ s = startedAs cfg l rom c := by
  rcases initMachine_cases cfg l rom with he | ⟨m, c, hc, hs⟩
  · rw [he] at h
    cases h
  · rw [hs] at h
    cases h
    exact ⟨m, c, hc, rfl⟩

theorem Accepted.legal (h : Accepted rom m c) : c.sized = true ∧ c.mapped :=
  ⟨(Cart.remap_same h.remap).2.trans (decide_eq_true ((Header.ok_iff rom _).mp h.ok).2.1), Cart.remap_mapped h.remap⟩

theorem startedAs_untouched (cfg : Config) (l : Launch) (rom : List Byte) (c : Cart) :
    Untouched (powerOnState cfg l c ((Header.read rom).buffers rom l)) (startedAs cfg l rom c) := resetSequence_untouched _

/-- The mapper of a machine that starts: the one its header names, at power-on. -/
theorem Accepted.cart_mapper (h : Accepted rom m c) : c.mapper = m := (Cart.remap_same h.remap).1

theorem Accepted.started_banks (h : Accepted rom m c) (cfg : Config) (l : Launch) : (startedAs cfg l rom c).cart.mapper.banks = m.banks :=
  (congrArg Cart.mapper (startedAs_untouched cfg l rom c).banks :).trans (congrArg Mapper.banks h.cart_mapper)

theorem Accepted.started_legal (h : Accepted rom m c) (cfg : Config) (l : Launch) : (startedAs cfg l rom c).CartInv :=
  State.mapped_of_banks (startedAs_untouched cfg l rom c).banks h.legal

theorem Apu.powerOn_silent : Apu.powerOn.Silent 0 := ⟨by decide, rfl, rfl, rfl, Nat.le_refl _⟩

/-- The power-on values leave nothing pending. -/
theorem Accepted.atRest (h : Accepted rom m c) (cfg : Config) (l : Launch) (b : Buffers) : (resetStart (powerOnState cfg l c b)).AtRest 0 :=
  ⟨rfl, rfl, rfl, rfl, rfl, rfl, Apu.powerOn_silent, by
    show c.mapper.IrqOff
    rw [h.cart_mapper, ← mapperOf_powerOn h.mapper]
    exact Mapper.irqOff_powerOn _⟩

/-- `n` read cycles after power-on, with nothing between them. -/
structure Elapsed (n : Nat) (s : State) : Prop where
  rest : s.AtRest n
  cyc : s.clk.cyc = n
  mclk : s.clk.mclk = 12 * n

theorem Elapsed.read {n : Nat} {s : State} (h : Elapsed n s) (hn : n < 7) (a : Word) : Elapsed (n + 1) (memRead a s).2 := by
  obtain ⟨hcyc, hmclk, -⟩ := readCycle_clk a s
  refine ⟨h.rest.read (by omega) a, ?_, ?_⟩
  · rw [h.rest.memRead_eq, hcyc, h.cyc]
  · rw [h.rest.memRead_eq, hmclk, h.mclk, Nat.mul_succ]

/-- The sequence takes seven cycles (R560). -/
theorem Accepted.elapsed (h : Accepted rom m c) (cfg : Config) (l : Launch) : Elapsed 7 (startedAs cfg l rom c) :=
  resetSequence_induction (P := Elapsed) (fun _ _ c h => ⟨h.rest.setCpu c, h.cyc, h.mclk⟩) (fun _ _ a hn _ h => h.read hn a)
    ⟨h.atRest cfg l _, rfl, rfl⟩

theorem Flags.powerOn_toByte : Flags.powerOn.toByte false = 0x24 := by
  decide

/-- The registers that power-on leaves beside `PC` (R565). -/
theorem startedAs_cpu (cfg : Config) (l : Launch) (rom : List Byte) (c : Cart) :
    (startedAs cfg l rom c).cpu = { a := 0, x := 0, y := 0, sp := 0xFD, pc := (startedAs cfg l rom c).cpu.pc, p := Flags.powerOn } := by
  rw [startedAs, resetSequence_cpu]
  rfl

/-- The image of a started machine is the header's cartridge. -/
theorem Accepted.started_image (h : Accepted rom m c) (cfg : Config) (l : Launch) :
    (startedAs cfg l rom c).cart.image = (Header.read rom).cart rom m := by
  calc (startedAs cfg l rom c).cart.image
      = c.image := Cart.image_of_bankView (startedAs_untouched cfg l rom c).banks
    _ = ((Header.read rom).cart rom m).image := Cart.remap_image h.remap
    _ = (Header.read rom).cart rom m := by rw [Cart.image, Header.cart, mapperOf_powerOn h.mapper]

/-- The buffers of a reboot are those of power-on with the new launch inputs (R563). -/
theorem rebootBuffers_started (l l' : Launch) (rom : List Byte) (m : Mapper) :
    rebootBuffers l' ((Header.read rom).cart rom m) ((Header.read rom).buffers rom l) = (Header.read rom).buffers rom l' := by
  unfold rebootBuffers Header.buffers Header.cart Cart.chrIsRam
  dsimp only
  by_cases hz : (Header.read rom).chrUnits = 0 <;> simp [hz]

/-- A reboot of a started machine is power-on with the same image (R563). -/
theorem Accepted.reboot (h : Accepted rom m c) (cfg : Config) (l l' : Launch) :
    reboot l' (startedAs cfg l rom c) = some (startedAs cfg l' rom c) := by
  have hu := startedAs_untouched cfg l rom c
  have hmem : (startedAs cfg l rom c).mem = (Header.read rom).buffers rom l := hu.mem
  have hcfg : (startedAs cfg l rom c).cfg = cfg := hu.cfg
  rw [reboot_eq, h.started_image, hmem, hcfg, rebootBuffers_started, powerOn_eq h.remap, startedAs]

/-- Everything said of a machine that starts. -/
theorem Accepted.started (h : Accepted rom m c) (cfg : Config) (l : Launch) :
    let s := startedAs cfg l rom c
    s.cpu.a = 0 ∧ s.cpu.x = 0 ∧ s.cpu.y = 0 ∧ s.cpu.sp = 0xFD ∧ s.cpu.p.toByte false = 0x24 ∧ s.clk.cyc = 7 ∧ s.clk.mclk = 84 ∧
      s.fault = none ∧ s.cfg = cfg ∧ s.cart.mapped ∧ s.mem = (Header.read rom).buffers rom l ∧
      (∀ lo hi, s.plainByte 0xFFFC = some lo → s.plainByte 0xFFFD = some hi → s.cpu.pc = word hi lo) := by
  intro s
  have hu := startedAs_untouched cfg l rom c
  have hcpu : s.cpu = _ := startedAs_cpu cfg l rom c
  obtain ⟨-, hcyc, hmclk⟩ := h.elapsed cfg l
  refine ⟨?_, ?_, ?_, ?_, ?_, hcyc, hmclk, hu.fault, hu.cfg, (h.started_legal cfg l).2, hu.mem, fun lo hi hl hh => resetSequence_pc rfl hl hh⟩
  all_goals rw [hcpu]
  exact Flags.powerOn_toByte

/-- Settles O8 (`powerOnState` is the model's name of the state before the sequence). -/
theorem powerOnState_holds : Obligations.PowerOnState := by
  refine ⟨fun cfg l rom => ⟨fun r hr => ?_, fun h => initMachine_malformed h cfg l, fun h => initMachine_unsupported h cfg l, fun m hok hm => ?_,
    ?_, fun s hs => ?_⟩, mapperOf_isSome_iff, fun l s hi => ⟨fun t ht => (SameImage.step hi ht).reboot_eq l, (warmReset_sameImage hi).reboot_eq l,
    fun r => rfl⟩⟩
  · rcases initMachine_cases cfg l rom with he | ⟨m, c, hc, hs⟩
    · rw [he] at hr
      cases hr
      rfl
    · rw [hs] at hr
      cases hr
  · obtain ⟨c, hc⟩ := accepted_of_ok hok hm
    exact ⟨_, hc.init cfg l, hc.started_banks cfg l, hc.started_legal cfg l⟩
  · rw [Header.ok_iff, Header.read_extended]
    rfl
  · obtain ⟨m, c, hc, rfl⟩ := initMachine_started hs
    obtain ⟨ha, hx, hy, hsp, hp, hcyc, hmclk, hf, hcfg, hmap, hmem, hpc⟩ := hc.started cfg l
    refine ⟨ha, hx, hy, hsp, hp, hcyc, hmclk, hf, hcfg, hmap, hmem, hpc, fun l' t ht => ?_⟩
    rw [hc.init cfg l'] at ht
    cases ht
    exact hc.reboot cfg l l'

end Sys2Proof.Machine
end

section
/-! SUPPORT. What one dot does to the picture: the raster position, the status flags, sprite selection and load, the pixel (R385 to R421). -/

namespace Sys2Proof.Machine

/-! ### What a dot leaves alone beside the background pipeline -/

/-- The picture processor without its raster position and its background pipeline, which have no part in sprites, pixels and flags. -/
def Ppu.figure (p : Ppu) : Ppu :=
  { p with scanline := 0, dot := 0, v := 0, ntByte := 0, atByte := 0, patLo := 0, patHi := 0, bgShiftLo := 0, bgShiftHi := 0, atShiftLo := 0,
           atShiftHi := 0 }

theorem Ppu.backgroundDot_figure (mem : Buffers) (now d : Nat) (p : Ppu) (c : Cart) : (p.backgroundDot mem now d c).1.figure = p.figure := by
  unfold Ppu.backgroundDot Ppu.scrollDot Ppu.fetchBg
  repeat' split
  all_goals rfl

theorem Ppu.advance_figure (s d : Nat) (p : Ppu) : (p.advance s d).figure = p.figure := by
  unfold Ppu.advance
  repeat' split
  all_goals rfl

/-- One dot of a visible scanline while rendering: the pixel, the selection or the load (R386). -/
def Ppu.spriteDot (mem : Buffers) (now s d : Nat) (p : Ppu) (c : Cart) : Ppu :=
  if 1 ≤ d ∧ d ≤ 256 then (p.clearDot d).outputPixel s (d - 1)
  else if d = 257 then Ppu.selectSprites s { p with v := copyHoriz p.t p.v }
  else if d = 321 then (p.loadSprites mem now s c).1
  else p

theorem Ppu.visibleDot_figure (mem : Buffers) (now s d : Nat) {p : Ppu} (hr : p.rendering = true) (c : Cart) :
    (p.visibleDot mem now s d c).1.figure = (p.spriteDot mem now s d c).figure := by
  have hsteps : ((((p.clearDot d).pixelDot s d).selectDot s d).loadDot mem now s d c).1 = p.spriteDot mem now s d c := by
    unfold Ppu.spriteDot Ppu.pixelDot Ppu.selectDot Ppu.loadDot
    by_cases hpix : 1 ≤ d ∧ d ≤ 256
    · rw [if_pos hpix, if_pos hpix, if_neg (by omega), if_neg (by omega)]
    · have hclear : p.clearDot d = p := if_neg (by omega)
      rw [if_neg hpix, if_neg hpix, hclear]
      by_cases hsel : d = 257
      · rw [if_pos hsel, if_pos hsel, if_neg (by omega)]
      · rw [if_neg hsel, if_neg hsel]
        split <;> rfl
  unfold Ppu.visibleDot
  rw [if_pos hr, Ppu.backgroundDot_figure, hsteps]

theorem Ppu.dotStep_figure (mem : Buffers) (now : Nat) (p : Ppu) (c : Cart) : (p.dotStep mem now c).1.figure = (p.dotActions mem now c).1.figure :=
  Ppu.advance_figure _ _ _

theorem Ppu.dotStep_rendered (mem : Buffers) (now : Nat) {p : Ppu} (hs : p.scanline ≤ 239) (hr : p.rendering = true) (c : Cart) :
    (p.dotStep mem now c).1.figure = (p.spriteDot mem now p.scanline p.dot c).figure := by
  rw [Ppu.dotStep_figure, Ppu.dotActions, if_pos hs, Ppu.visibleDot_figure mem now _ _ hr]

theorem Ppu.dotStep_backdrop (mem : Buffers) (now : Nat) {p : Ppu} (hs : p.scanline ≤ 239) (hr : p.rendering = false) (c : Cart) :
    (p.dotStep mem now c).1.figure = (p.backdropDot p.scanline p.dot).figure := by
  rw [Ppu.dotStep_figure, Ppu.dotActions, if_pos hs, Ppu.visibleDot, if_neg (ne_true_of_eq_false hr)]

/-! ### The status of the picture (R37, R390 to R394) -/

/-- The frame counter and the three status flags. -/
structure PictureStatus where
  frame : Nat
  vblank : Bool
  hit : Bool
  overflow : Bool

def Ppu.status (p : Ppu) : PictureStatus := { frame := p.frame, vblank := p.nmiOccurred, hit := p.spriteZeroHit, overflow := p.spriteOverflow }

theorem Ppu.status_of_figure {p q : Ppu} (h : q.figure = p.figure) : q.status = p.status := (congrArg Ppu.status h :)

theorem Ppu.preRenderDot_status (mem : Buffers) (now d : Nat) (p : Ppu) (c : Cart) :
    (p.preRenderDot mem now d c).1.status = (p.flagsDot d).status := by
  have htail : ∀ q : Ppu, ∀ c : Cart, (((q.horizontalDot d).verticalDot d).loadDot mem now 261 d c).1.status = q.status := by
    intro q c
    unfold Ppu.horizontalDot Ppu.verticalDot Ppu.loadDot
    repeat' split
    all_goals rfl
  unfold Ppu.preRenderDot
  split
  · exact (htail _ _).trans (Ppu.status_of_figure (Ppu.backgroundDot_figure _ _ _ _ _))
  · rfl

/-- Below the picture a dot counts the frame at (240, 0), starts vertical blank at (241, 1), ends it and clears the sprite flags at (261, 1). -/
theorem Ppu.dotStep_status_below (mem : Buffers) (now : Nat) {p : Ppu} (hs : ¬ p.scanline ≤ 239) (c : Cart) :
    (p.dotStep mem now c).1.status =
      if p.scanline = 240 ∧ p.dot = 0 then { p.status with frame := p.frame + 1 }
      else if p.scanline = 241 ∧ p.dot = 1 then { p.status with vblank := p.nmiOccurred || !p.suppressVbl }
      else if p.scanline = 261 ∧ p.dot = 1 then { p.status with vblank := false, hit := false, overflow := false }
      else p.status := by
  rw [Ppu.status_of_figure (p.dotStep_figure mem now c), Ppu.dotActions, if_neg hs]
  by_cases h240 : p.scanline = 240
  · rw [if_pos h240, Ppu.postRenderDot]
    by_cases hd : p.dot = 0
    · rw [if_pos hd, if_pos ⟨h240, hd⟩]
      rfl
    · rw [if_neg hd, if_neg (by omega), if_neg (by omega), if_neg (by omega)]
  · rw [if_neg h240, if_neg (c := p.scanline = 240 ∧ p.dot = 0) (by omega)]
    by_cases h241 : p.scanline = 241
    · rw [if_pos h241, Ppu.vblankDot]
      by_cases hd : p.dot = 1
      · rw [if_pos hd, if_pos ⟨h241, hd⟩]
        rfl
      · rw [if_neg hd, if_neg (by omega), if_neg (by omega)]
    · rw [if_neg h241, if_neg (c := p.scanline = 241 ∧ p.dot = 1) (by omega)]
      by_cases h261 : p.scanline = 261
      · rw [if_pos h261, Ppu.preRenderDot_status, Ppu.flagsDot]
        by_cases hd : p.dot = 1
        · rw [if_pos hd, if_pos ⟨h261, hd⟩]
          rfl
        · rw [if_neg hd, if_neg (by omega)]
      · rw [if_neg h261, if_neg (by omega)]

/-- Within the picture a dot counts no frame and touches no vertical blank; the sprite flags change while rendering alone,
the hit left of the last column and the overflow at the selection. -/
structure VisibleStatus (p q : Ppu) : Prop where
  frame : q.frame = p.frame
  vblank : q.nmiOccurred = p.nmiOccurred
  hit : q.spriteZeroHit ≠ p.spriteZeroHit → p.rendering = true ∧ 1 ≤ p.dot ∧ p.dot ≤ 255
  overflow : q.spriteOverflow ≠ p.spriteOverflow → p.rendering = true ∧ p.dot = 257

theorem VisibleStatus.of_same {p q : Ppu} (h : q.status = p.status) : VisibleStatus p q :=
  ⟨congrArg PictureStatus.frame h, congrArg PictureStatus.vblank h, fun hne => absurd (congrArg PictureStatus.hit h) hne,
    fun hne => absurd (congrArg PictureStatus.overflow h) hne⟩

theorem VisibleStatus.congr {p q r : Ppu} (h : q.status = r.status) (hr : VisibleStatus p r) : VisibleStatus p q := by
  obtain ⟨hframe, hvblank, hhit, hoverflow⟩ := hr
  have ehit : q.spriteZeroHit = r.spriteZeroHit := congrArg PictureStatus.hit h
  have eoverflow : q.spriteOverflow = r.spriteOverflow := congrArg PictureStatus.overflow h
  exact ⟨(congrArg PictureStatus.frame h :).trans hframe, (congrArg PictureStatus.vblank h :).trans hvblank, ehit ▸ hhit, eoverflow ▸ hoverflow⟩

theorem Ppu.clearDot_outputPixel (s d x : Nat) (p : Ppu) :
    (p.clearDot d).outputPixel s x = { p.outputPixel s x with secOam := (p.clearDot d).secOam } := by
  unfold Ppu.clearDot
  split <;> rfl

/-- No sprite-zero hit at column 255 (R418). -/
theorem Ppu.outputPixel_hit_255 (s : Nat) (p : Ppu) : (p.outputPixel s 255).spriteZeroHit = p.spriteZeroHit := by
  simp [Ppu.outputPixel]

theorem Ppu.spriteDot_status (mem : Buffers) (now s : Nat) {p : Ppu} (hr : p.rendering = true) (c : Cart) :
    VisibleStatus p (p.spriteDot mem now s p.dot c) := by
  unfold Ppu.spriteDot
  split
  case isTrue hd =>
    rw [Ppu.clearDot_outputPixel]
    refine ⟨rfl, rfl, fun hne => ⟨hr, hd.1, ?_⟩, fun hne => absurd rfl hne⟩
    by_contra hlast
    have hx : p.dot - 1 = 255 := by omega
    rw [hx] at hne
    exact hne (p.outputPixel_hit_255 s)
  case isFalse =>
    split
    case isTrue hd => exact ⟨rfl, rfl, fun hne => absurd rfl hne, fun _ => ⟨hr, hd⟩⟩
    case isFalse => split <;> exact .of_same rfl

theorem Ppu.dotStep_status_visible (mem : Buffers) (now : Nat) {p : Ppu} (hs : p.scanline ≤ 239) (c : Cart) :
    VisibleStatus p (p.dotStep mem now c).1 := by
  cases hr : p.rendering with
  | true => exact .congr (Ppu.status_of_figure (Ppu.dotStep_rendered mem now hs hr c)) (Ppu.spriteDot_status mem now _ hr c)
  | false =>
    refine .congr (Ppu.status_of_figure (Ppu.dotStep_backdrop mem now hs hr c)) (.of_same ?_)
    unfold Ppu.backdropDot
    split <;> rfl

/-! ### The raster position (R385, R389) -/

/-- The odd-frame skip after the dot `(s, d)` (R389). -/
def Ppu.skips (s d : Nat) (p : Ppu) : Prop := s = 261 ∧ d = 339 ∧ p.rendering = true ∧ p.frame % 2 = 1

theorem Ppu.advance_skip {s d : Nat} {p : Ppu} (h : p.skips s d) : ((p.advance s d).scanline, (p.advance s d).dot) = (0, 0) := by
  rw [Ppu.advance, if_pos (show _ ∧ _ from h)]

theorem Ppu.advance_next {s d : Nat} {p : Ppu} (h : ¬ p.skips s d) (hp : p.scanline = s) (hs : s < 262) :
    ((p.advance s d).scanline, (p.advance s d).dot) = if d = 340 then (if s = 261 then 0 else s + 1, 0) else (s, d + 1) := by
  rw [Ppu.advance, if_neg (show ¬ (_ ∧ _) from h)]
  by_cases hd : d = 340
  · have hline : (s + 1) % 262 = if s = 261 then 0 else s + 1 := by
      split <;> omega
    rw [if_pos hd, if_pos hd]
    exact congrArg (·, 0) hline
  · rw [if_neg hd, if_neg hd]
    exact congrArg (·, d + 1) hp

/-- The actions of a dot decide no odd-frame skip. -/
theorem Ppu.dotActions_skips (mem : Buffers) (now : Nat) (p : Ppu) (c : Cart) :
    (p.dotActions mem now c).1.skips p.scanline p.dot ↔ p.skips p.scanline p.dot := by
  have hrender : (p.dotActions mem now c).1.rendering = p.rendering := by
    unfold Ppu.rendering
    rw [(p.dotActions_frame mem now c).mask]
  have hframe : p.scanline = 261 → (p.dotActions mem now c).1.frame = p.frame := fun h261 => by
    have hst := p.dotStep_status_below mem now (by omega) c
    rw [if_neg (by omega), if_neg (by omega), Ppu.status_of_figure (p.dotStep_figure mem now c)] at hst
    have hfr : (p.dotActions mem now c).1.status.frame = p.status.frame := by
      rw [hst]
      split <;> rfl
    exact hfr
  unfold Ppu.skips
  rw [hrender]
  exact and_congr_right fun h261 => by rw [hframe h261]

theorem Ppu.dotStep_position (mem : Buffers) (now : Nat) {p : Ppu} (hv : p.rasterValid) (c : Cart) :
    ((p.dotStep mem now c).1.scanline, (p.dotStep mem now c).1.dot) =
      (if p.scanline = 261 ∧ p.dot = 339 ∧ p.rendering = true ∧ p.frame % 2 = 1 then (0, 0)
       else if p.dot = 340 then (if p.scanline = 261 then 0 else p.scanline + 1, 0) else (p.scanline, p.dot + 1)) := by
  by_cases h : p.skips p.scanline p.dot
  · rw [if_pos (show _ ∧ _ from h)]
    exact Ppu.advance_skip ((p.dotActions_skips mem now c).mpr h)
  · rw [if_neg (show ¬ (_ ∧ _) from h)]
    exact Ppu.advance_next ((p.dotActions_skips mem now c).not.mpr h) (p.dotActions_scanline mem now c) hv.1

/-! ### Sprite selection (R410 to R412) -/

theorem inRange_eq_covers (p : Ppu) (s : Nat) (y : Byte) : inRange s p.spriteHeight y = p.covers s y := by
  have hpos : 0 < (if p.ctrl.getLsbD 5 = true then 16 else 8) := by
    split <;> decide
  unfold inRange Ppu.covers Ppu.spriteHeight
  rw [← Bool.decide_and, decide_eq_decide]
  omega

/-- The sprites among the first `n` whose Y byte is in range. -/
def spritesBelow (oam : Memory) (s h n : Nat) : List Nat := (List.range n).filter fun k => inRange s h (oam.read (4 * k))

theorem spritesBelow_succ (oam : Memory) (s h n : Nat) :
    spritesBelow oam s h (n + 1) = spritesBelow oam s h n ++ if inRange s h (oam.read (4 * n)) = true then [n] else [] := by
  rw [spritesBelow, List.range_succ, List.filter_append, List.filter_singleton, Bool.cond_eq_ite]
  rfl

theorem spritesBelow_prefix (oam : Memory) (s h : Nat) {n m : Nat} (hle : n ≤ m) : spritesBelow oam s h n <+: spritesBelow oam s h m := by
  induction m, hle using Nat.le_induction with
  | base => exact List.prefix_refl _
  | succ m _ ih =>
    rw [spritesBelow_succ]
    exact ih.trans (List.prefix_append _ _)

theorem zero_mem_spritesBelow {oam : Memory} {s h n : Nat} (hn : 1 ≤ n) : 0 ∈ spritesBelow oam s h n ↔ inRange s h (oam.read 0) = true := by
  rw [spritesBelow, List.mem_filter, List.mem_range]
  exact and_iff_right hn

theorem copySprite_read {sec : Memory} (hwf : sec.wf = true) (oam : Memory) (n count a : Nat) :
    (copySprite oam n count sec).read a = if a / 4 = count then oam.read (4 * n + a % 4) else sec.read a := by
  have h1 := Memory.wf_write hwf (4 * count) (oam.read (4 * n))
  have h2 := Memory.wf_write h1 (4 * count + 1) (oam.read (4 * n + 1))
  have h3 := Memory.wf_write h2 (4 * count + 2) (oam.read (4 * n + 2))
  rw [copySprite, Memory.read_write h3, Memory.read_write h2, Memory.read_write h1, Memory.read_write hwf]
  by_cases hslot : a / 4 = count
  · obtain ⟨k, hk, rfl⟩ : ∃ k, k < 4 ∧ a = 4 * count + k := ⟨a % 4, Nat.mod_lt _ (by decide), by omega⟩
    rw [if_pos hslot, show (4 * count + k) % 4 = k by omega]
    interval_cases k <;> simp
  · rw [if_neg hslot, if_neg (by omega), if_neg (by omega), if_neg (by omega), if_neg (by omega)]

/-- What the selection has done after it looked at the first `q.n` sprites: those in range are counted and copied, up to the eighth. -/
structure Selecting (oam : Memory) (s h : Nat) (q : Selection) : Prop where
  bound : q.n ≤ 64
  count : q.count = (spritesBelow oam s h q.n).length
  atMost : q.count ≤ 8
  hasZero : q.hasZero = decide (0 ∈ spritesBelow oam s h q.n)
  wf : q.sec.wf = true
  copied : ∀ u n k, (spritesBelow oam s h q.n)[u]? = some n → k < 4 → q.sec.read (4 * u + k) = oam.read (4 * n + k)
  eighth : q.count = 8 → 1 ≤ q.n ∧ (spritesBelow oam s h q.n)[7]? = some (q.n - 1)

theorem Selecting.start (oam : Memory) (s h : Nat) {sec : Memory} (hwf : sec.wf = true) :
    Selecting oam s h { n := 0, count := 0, hasZero := false, sec := sec } :=
  ⟨Nat.zero_le _, rfl, Nat.zero_le _, rfl, hwf, fun _ _ _ hu => (nomatch hu), fun h8 => (nomatch h8)⟩

variable {oam : Memory} {s h : Nat} {q : Selection}

/-- A sprite out of range is passed over. -/
theorem Selecting.pass (hq : Selecting oam s h q) (hn : q.n < 64) (hc : q.count < 8) (hout : ¬ inRange s h (oam.read (4 * q.n)) = true) :
    Selecting oam s h { q with n := q.n + 1 } := by
  have hsame : spritesBelow oam s h (q.n + 1) = spritesBelow oam s h q.n := by
    rw [spritesBelow_succ, if_neg hout, List.append_nil]
  refine ⟨hn, ?_, hq.atMost, ?_, hq.wf, fun u n k hu hk => ?_, fun h8 => absurd h8 (Nat.ne_of_lt hc)⟩
  · rw [hsame]
    exact hq.count
  · rw [hsame]
    exact hq.hasZero
  · rw [hsame] at hu
    exact hq.copied u n k hu hk

/-- A sprite in range is counted and copied. -/
theorem Selecting.take (hq : Selecting oam s h q) (hn : q.n < 64) (hc : q.count < 8) (hin : inRange s h (oam.read (4 * q.n)) = true) :
    Selecting oam s h
      { n := q.n + 1, count := q.count + 1, hasZero := q.hasZero || decide (q.n = 0), sec := copySprite oam q.n q.count q.sec } := by
  have hmore : spritesBelow oam s h (q.n + 1) = spritesBelow oam s h q.n ++ [q.n] := by
    rw [spritesBelow_succ, if_pos hin]
  have hlast : (spritesBelow oam s h (q.n + 1))[q.count]? = some q.n := by
    rw [hmore, hq.count, List.getElem?_concat_length]
  refine ⟨hn, ?_, hc, ?_, copySprite_wf _ _ _ hq.wf, fun u n k hu hk => ?_, fun h8 => ⟨Nat.succ_pos _, ?_⟩⟩
  · rw [hmore, List.length_append, ← hq.count]
    rfl
  · rw [hmore, hq.hasZero, ← Bool.decide_or, decide_eq_decide, List.mem_append, List.mem_singleton, eq_comm (a := q.n)]
  · have hdiv : (4 * u + k) / 4 = u := by omega
    have hmod : (4 * u + k) % 4 = k := by omega
    rw [copySprite_read hq.wf, hdiv, hmod]
    split
    case isTrue hlastu =>
      rw [hlastu, hlast] at hu
      rw [Option.some.inj hu]
    case isFalse hne =>
      have hlen : u < (spritesBelow oam s h (q.n + 1)).length := (List.getElem?_eq_some_iff.mp hu).1
      rw [hmore, List.length_append, ← hq.count, List.length_singleton] at hlen
      rw [hmore, List.getElem?_append_left (by rw [← hq.count]; omega)] at hu
      exact hq.copied u n k hu hk
  · have h7 : q.count = 7 := Nat.succ.inj h8
    rw [← h7]
    exact hlast

/-- The loop ends with all sprites looked at or eight found. -/
theorem Selecting.loop (fuel : Nat) (hfuel : 64 ≤ q.n + fuel) (hq : Selecting oam s h q) :
    Selecting oam s h (selectLoop oam s h fuel q) ∧ ((selectLoop oam s h fuel q).n = 64 ∨ (selectLoop oam s h fuel q).count = 8) := by
  induction fuel generalizing q with
  | zero => exact ⟨hq, .inl (Nat.le_antisymm hq.bound hfuel)⟩
  | succ fuel ih =>
    unfold selectLoop
    split
    case isTrue hgo =>
      split
      case isTrue hin => exact ih (by dsimp only; omega) (hq.take hgo.1 hgo.2 hin)
      case isFalse hout => exact ih (by dsimp only; omega) (hq.pass hgo.1 hgo.2 hout)
    case isFalse hstop =>
      have := hq.bound
      have := hq.atMost
      exact ⟨hq, by omega⟩

/-- The overflow search, its byte offset advancing with the sprite number (R412). -/
theorem overflowLoop_eq (oam : Memory) (s h : Nat) (fuel : Nat) {n m : Nat} (hfuel : 64 ≤ n + fuel) (hm : m < 4) :
    overflowLoop oam s h fuel n m = (List.range (64 - n)).any fun j => inRange s h (oam.read (4 * (n + j) + (m + j) % 4)) := by
  induction fuel generalizing n m with
  | zero =>
    rw [show 64 - n = 0 by omega]
    rfl
  | succ fuel ih =>
    unfold overflowLoop
    split
    case isTrue hn =>
      have hnext : ∀ j, inRange s h (oam.read (4 * (n + 1 + j) + ((m + 1) % 4 + j) % 4)) =
          inRange s h (oam.read (4 * (n + (j + 1)) + (m + (j + 1)) % 4)) := by
        intro j
        rw [show n + 1 + j = n + (j + 1) by omega, show ((m + 1) % 4 + j) % 4 = (m + (j + 1)) % 4 by omega]
      have hfirst : (m + 0) % 4 = m := Nat.mod_eq_of_lt hm
      rw [ih (by omega) (Nat.mod_lt _ (by decide)), show 64 - n = (64 - (n + 1)) + 1 by omega, List.range_succ_eq_map, List.any_cons, List.any_map, hfirst]
      simp only [hnext, Nat.add_zero, Function.comp_def, Nat.succ_eq_add_one]
      cases inRange s h (oam.read (4 * n + m)) <;> rfl
    case isFalse hn =>
      rw [show 64 - n = 0 by omega]
      rfl

/-- The selection has looked at all sprites, or found eight. -/
def Selection.Done (q : Selection) : Prop := q.n = 64 ∨ q.count = 8

theorem Selecting.getElem?_all (hq : Selecting oam s h q) {u : Nat} (hu : u < q.count) :
    (spritesBelow oam s h 64)[u]? = (spritesBelow oam s h q.n)[u]? := by
  obtain ⟨rest, hrest⟩ := spritesBelow_prefix oam s h hq.bound
  rw [← hrest, List.getElem?_append_left (hq.count ▸ hu)]

theorem Selecting.count_all (hq : Selecting oam s h q) (hdone : q.Done) : q.count = min 8 (spritesBelow oam s h 64).length := by
  have hle : q.count ≤ (spritesBelow oam s h 64).length := hq.count ▸ (spritesBelow_prefix oam s h hq.bound).length_le
  have hmost := hq.atMost
  rcases hdone with h64 | h8
  · have hall := hq.count
    rw [h64] at hall
    omega
  · omega

theorem Selecting.hasZero_all (hq : Selecting oam s h q) (hdone : q.Done) : q.hasZero = decide (0 ∈ spritesBelow oam s h 64) := by
  rcases hdone with h64 | h8
  · rw [hq.hasZero, h64]
  · rw [hq.hasZero, decide_eq_decide, zero_mem_spritesBelow (hq.eighth h8).1, zero_mem_spritesBelow (by decide)]

theorem Selecting.copied_all (hq : Selecting oam s h q) (hdone : q.Done) {u n k : Nat} (hu8 : u < 8) (hu : (spritesBelow oam s h 64)[u]? = some n)
    (hk : k < 4) : q.sec.read (4 * u + k) = oam.read (4 * n + k) := by
  have hlen : u < (spritesBelow oam s h 64).length := (List.getElem?_eq_some_iff.mp hu).1
  have hcount := hq.count_all hdone
  rw [hq.getElem?_all (by omega)] at hu
  exact hq.copied u n k hu hk

/-- The eighth sprite selected is the last looked at; without one the search has nothing left. -/
theorem Selecting.eighth_all (hq : Selecting oam s h q) (hdone : q.Done) :
    (1 ≤ q.n ∧ (spritesBelow oam s h 64)[7]? = some (q.n - 1)) ∨ (q.n = 64 ∧ (spritesBelow oam s h 64)[7]? = none) := by
  by_cases h8 : q.count = 8
  · obtain ⟨hn, he⟩ := hq.eighth h8
    exact .inl ⟨hn, (hq.getElem?_all (by omega)).trans he⟩
  · have h64 := hdone.resolve_right h8
    have hlen := hq.count
    have hmost := hq.atMost
    rw [h64] at hlen
    exact .inr ⟨h64, List.getElem?_eq_none (by omega)⟩

theorem Ppu.spritesOn_eq (p : Ppu) (s : Nat) : p.spritesOn s = spritesBelow p.oam s p.spriteHeight 64 := by
  simp only [Ppu.spritesOn, spritesBelow, inRange_eq_covers]

theorem Ppu.overflowFound_eq {p : Ppu} (hq : Selecting p.oam s p.spriteHeight q) (hdone : q.Done) :
    overflowLoop p.oam s p.spriteHeight 64 q.n 0 = p.overflowFound s := by
  rw [overflowLoop_eq _ _ _ _ (by omega) (by decide), Ppu.overflowFound, Ppu.spritesOn_eq]
  rcases hq.eighth_all hdone with ⟨hn, he⟩ | ⟨h64, he⟩
  · rw [he]
    dsimp only
    rw [show 63 - (q.n - 1) = 64 - q.n by omega, show q.n - 1 + 1 = q.n by omega]
    simp only [inRange_eq_covers, Nat.zero_add]
  · rw [he, h64]
    rfl

/-- Dot 257: the sprites of the next scanline are selected. -/
theorem Ppu.selectSprites_selected {p : Ppu} (hwf : p.secOam.wf = true) (s : Nat) (v : BitVec 15) :
    p.Selected s (Ppu.selectSprites s { p with v := v }) := by
  obtain ⟨hq, hdone⟩ := Selecting.loop 64 (by omega) (Selecting.start p.oam s p.spriteHeight hwf)
  refine ⟨?_, ?_, fun u n k hu8 hu hk => ?_, ?_, rfl⟩
  · rw [Ppu.spritesOn_eq]
    exact hq.count_all hdone
  · rw [Ppu.spritesOn_eq]
    exact hq.hasZero_all hdone
  · rw [Ppu.spritesOn_eq] at hu
    exact hq.copied_all hdone hu8 hu hk
  · exact congrArg (p.spriteOverflow || ·) (Ppu.overflowFound_eq hq hdone)

theorem Ppu.Selected.of_figure {p q r : Ppu} {s : Nat} (h : q.figure = r.figure) (hr : p.Selected s r) : p.Selected s q := by
  have hsec : q.secOam = r.secOam := (congrArg Ppu.secOam h :)
  exact ⟨(congrArg Ppu.sprNextCount h :).trans hr.count, (congrArg Ppu.sprNextHasZero h :).trans hr.hasZero, hsec ▸ hr.copied,
    (congrArg Ppu.spriteOverflow h :).trans hr.overflow, (congrArg Ppu.oamAddr h :).trans hr.pointer⟩

end Sys2Proof.Machine
end

section
/-! SUPPORT. Sprite load, pixel composition, and the dot as a whole (R411 to R421). -/

namespace Sys2Proof.Machine

/-! ### Sprite load (R413) -/

/-- The address of a pattern byte, for a row of the sprite. -/
theorem sprPatAddr_toNat (p : Ppu) (tile : Byte) {row : Nat} (hrow : row < p.spriteHeight) :
    (sprPatAddr p.ctrl tile (row : Int)).toNat = p.spritePattern tile row ∧ p.spritePattern tile row + 8 < 2 ^ 14 := by
  have htile := tile.isLt
  have hodd : tile.getLsbD 0 = true ↔ tile.toNat % 2 = 1 := by
    rw [BitVec.getLsbD, Nat.testBit_zero, decide_eq_true_eq]
  unfold Ppu.spriteHeight at hrow
  unfold sprPatAddr Ppu.spritePattern
  split at hrow
  case isTrue htall =>
    rw [if_pos htall, if_pos htall, (toNat_pair tile).1]
    have hint : ((if tile.getLsbD 0 = true then 0x1000 else 0)
          + 16 * (((tile.toNat / 2 * 2 : Nat) : Int) + (if 8 ≤ (row : Int) then 1 else 0)) + (row : Int) % 8)
        = ((tile.toNat % 2 * 4096 + 16 * (tile.toNat / 2 * 2 + row / 8) + row % 8 : Nat) : Int) := by
      simp only [hodd]
      split <;> split <;> omega
    rw [hint, BitVec.ofInt_natCast, BitVec.toNat_ofNat]
    omega
  case isFalse hshort =>
    rw [if_neg hshort, if_neg hshort]
    have hint : ((if p.ctrl.getLsbD 3 = true then 0x1000 else 0) + 16 * (tile.toNat : Int) + (row : Int))
        = (((if p.ctrl.getLsbD 3 = true then 4096 else 0) + 16 * tile.toNat + row : Nat) : Int) := by
      split <;> omega
    rw [hint, BitVec.ofInt_natCast, BitVec.toNat_ofNat]
    split <;> omega

/-- On a scanline the sprite covers, the row is one of its rows. -/
theorem spriteRow_eq {p : Ppu} {s : Nat} {y : Byte} (hcov : p.covers s y = true) (attr : Byte) :
    spriteRow s p.spriteHeight y attr = (p.spriteRowShown s y attr : Int) ∧ p.spriteRowShown s y attr < p.spriteHeight := by
  obtain ⟨hy, hlt⟩ := of_decide_eq_true hcov
  change s < y.toNat + p.spriteHeight at hlt
  have hshown : p.spriteRowShown s y attr = if attr.getLsbD 7 = true then p.spriteHeight - 1 - (s - y.toNat) else s - y.toNat := by
    unfold Ppu.spriteRowShown Ppu.spriteHeight
    by_cases htall : p.ctrl.getLsbD 5 = true
    · rw [if_pos htall, if_pos htall]
    · rw [if_neg htall, if_neg htall]
  rw [hshown]
  unfold spriteRow
  dsimp only
  by_cases hflip : attr.getLsbD 7 = true
  · rw [if_pos hflip, if_pos hflip]
    omega
  · rw [if_neg hflip, if_neg hflip]
    omega

/-- The address of the low pattern byte of unit `u`, as `LoadSprites` forms it. -/
def Ppu.unitAddress (p : Ppu) (s u : Nat) : BitVec 14 :=
  sprPatAddr p.ctrl (p.secOam.read (4 * u + 1)) (spriteRow s p.spriteHeight (p.secOam.read (4 * u)) (p.secOam.read (4 * u + 2)))

/-- The address of the low pattern byte of unit `u`, for the row that shows on the next scanline. -/
def Ppu.unitPattern (p : Ppu) (s u : Nat) : Nat :=
  p.spritePattern (p.secOam.read (4 * u + 1)) (p.spriteRowShown s (p.secOam.read (4 * u)) (p.secOam.read (4 * u + 2)))

theorem Ppu.unitAddress_toNat {p : Ppu} {s u : Nat} (hcov : p.covers s (p.secOam.read (4 * u)) = true) :
    (p.unitAddress s u).toNat = p.unitPattern s u ∧ (p.unitAddress s u + 8).toNat = p.unitPattern s u + 8 := by
  obtain ⟨hrow, hlt⟩ := spriteRow_eq hcov (p.secOam.read (4 * u + 2))
  obtain ⟨haddr, hbound⟩ := sprPatAddr_toNat p (p.secOam.read (4 * u + 1)) hlt
  have hlow : (p.unitAddress s u).toNat = p.unitPattern s u := by
    rw [Ppu.unitAddress, hrow]
    exact haddr
  refine ⟨hlow, ?_⟩
  rw [BitVec.toNat_add, hlow]
  exact Nat.mod_eq_of_lt hbound

theorem Cart.ppuRead_value {c : Cart} {mem : Buffers} {a : BitVec 14} {v : Byte} (h : c.ppuSpace.read mem a.toNat = some v) (now : Nat) :
    (c.ppuRead mem now a).1 = v := by
  rw [Cart.ppuRead, h]
  rfl

/-- A pattern byte as a unit holds it: reversed by horizontal flip. -/
def flipped (flip : Bool) (b : Byte) : Byte := pick flip (bitReverse b) b

theorem flipped_bit (flip : Bool) (b : Byte) {i : Nat} (hi : i < 8) :
    (flipped flip b).getLsbD i = b.getLsbD (if flip = true then 7 - i else i) := by
  cases flip
  · rfl
  · show b.reverse.getLsbD i = b.getLsbD (7 - i)
    rw [BitVec.getLsbD_reverse, BitVec.getMsbD, decide_eq_true hi, Bool.true_and]

variable {mem : Buffers} {now s u : Nat} {p : Ppu} {c : Cart}

/-- A unit in use whose sprite covers the scanline holds the pattern bytes of the row shown. -/
theorem Ppu.loadUnit_patterns {l h : Byte} (hcov : p.covers s (p.secOam.read (4 * u)) = true)
    (hl : c.ppuSpace.read mem (p.unitPattern s u) = some l) (hh : c.ppuSpace.read mem (p.unitPattern s u + 8) = some h) :
    (p.loadUnit mem now s u c).1.patLo = flipped ((p.secOam.read (4 * u + 2)).getLsbD 6) l ∧
      (p.loadUnit mem now s u c).1.patHi = flipped ((p.secOam.read (4 * u + 2)).getLsbD 6) h := by
  obtain ⟨hlow, hhigh⟩ := Ppu.unitAddress_toNat hcov
  have hfirst : (c.ppuRead mem now (p.unitAddress s u)).1 = l := Cart.ppuRead_value (hlow ▸ hl) now
  have hsecond : ((c.ppuRead mem now (p.unitAddress s u)).2.ppuRead mem now (p.unitAddress s u + 8)).1 = h :=
    Cart.ppuRead_value (c := (c.ppuRead mem now (p.unitAddress s u)).2) (hhigh ▸ hh) now
  exact ⟨congrArg (flipped _) hfirst, congrArg (flipped _) hsecond⟩

/-- Each unit is loaded or blanked, whatever the fetches before it did to the address-line watch. -/
theorem Ppu.loadUnits_getElem? {l : List SpriteUnit} {i : Nat} {w : SpriteUnit} (h : (p.loadUnits mem now s u l c).1[i]? = some w) :
    ∃ old d, d.ppuSpace = c.ppuSpace ∧
      w = if u + i < p.sprNextCount then (p.loadUnit mem now s (u + i) d).1 else (p.idleUnit mem now old d).1 := by
  induction l generalizing u c i with
  | nil => cases h
  | cons old rest ih =>
    cases i with
    | zero =>
      refine ⟨old, c, rfl, ?_⟩
      rw [← apply_ite Prod.fst]
      exact (Option.some.inj h).symm
    | succ i =>
      obtain ⟨old', d, hd, hw⟩ := ih h
      refine ⟨old', d, hd.trans ?_, ?_⟩
      · split <;> rfl
      · rw [show u + (i + 1) = u + 1 + i by omega]
        exact hw

/-- Dot 321: the sprite units are loaded. -/
theorem Ppu.loadSprites_loaded (mem : Buffers) (now s : Nat) (p : Ppu) (c : Cart) :
    p.SpritesLoaded (c.ppuSpace.read mem) s (p.loadSprites mem now s c).1 := by
  refine ⟨rfl, p.loadUnits_length mem now s _ 0 c, fun u w hu hw => ?_, fun u w hu hw => ?_⟩
  · obtain ⟨old, d, hd, hunit⟩ := Ppu.loadUnits_getElem? hw
    rw [Nat.zero_add, if_pos hu] at hunit
    subst hunit
    refine ⟨rfl, rfl, rfl, fun hcov l h hl hh i hi => ?_⟩
    rw [← hd] at hl hh
    obtain ⟨hlo, hhi⟩ := Ppu.loadUnit_patterns (now := now) hcov hl hh
    rw [hlo, hhi, flipped_bit _ _ hi, flipped_bit _ _ hi]
    exact ⟨rfl, rfl⟩
  · obtain ⟨old, d, -, hunit⟩ := Ppu.loadUnits_getElem? hw
    rw [Nat.zero_add, if_neg (Nat.not_lt.mpr hu)] at hunit
    subst hunit
    exact ⟨rfl, rfl⟩

theorem Ppu.SpritesLoaded.of_figure {read : Nat → Option Byte} {q r : Ppu} (h : q.figure = r.figure) (hr : p.SpritesLoaded read s r) :
    p.SpritesLoaded read s q := by
  have hunits : q.sprites = r.sprites := (congrArg Ppu.sprites h :)
  exact ⟨(congrArg Ppu.sprCount h :).trans hr.count, hunits ▸ hr.length, hunits ▸ hr.used, hunits ▸ hr.unused⟩

/-! ### Pixel composition (R414 to R421) -/

theorem Pixels.read_write {m : Pixels} (h : Pixels.wf m = true) (a b : Nat) (v : BitVec 9) :
    Pixels.read (Pixels.write m a v) b = if b = a then v else Pixels.read m b := by
  split
  case isTrue he =>
    rw [he]
    exact cellsRead_write_same v h
  case isFalse hne => exact cellsRead_write_other v h hne

theorem twoBits_eq (hi lo : BitVec 16) (k : Nat) : twoBits hi lo k = pixelAt hi lo k := by
  unfold twoBits pixelAt
  cases hi.getLsbD k <;> cases lo.getLsbD k <;> rfl

theorem pixelAt_lt {n : Nat} (hi lo : BitVec n) (k : Nat) : pixelAt hi lo k < 4 := by
  have hh := (hi.getLsbD k).toNat_lt
  have hl := (lo.getLsbD k).toNat_lt
  unfold pixelAt
  omega

theorem Ppu.bgPixel_eq (p : Ppu) (x : Nat) : p.bgPixel x = p.bgShown x := by
  unfold Ppu.bgPixel Ppu.bgShown
  simp only [twoBits_eq, Bool.or_eq_true, Bool.and_eq_true, Bool.not_eq_true', decide_eq_true_eq]

theorem Ppu.bgShown_lt (p : Ppu) (x : Nat) : (p.bgShown x).1 < 4 ∧ (p.bgShown x).2 < 4 := by
  unfold Ppu.bgShown
  split
  · exact ⟨by decide, by decide⟩
  · exact ⟨pixelAt_lt _ _ _, pixelAt_lt _ _ _⟩

theorem SpriteUnit.pixel_eq (u : SpriteUnit) (x : Nat) : u.pixel x = u.shown x := by
  unfold SpriteUnit.pixel SpriteUnit.shown
  by_cases hcov : u.x.toNat ≤ x ∧ x < u.x.toNat + 8
  · rw [if_pos hcov, if_pos (by omega), show u.x.toNat + 7 - x = 7 - (x - u.x.toNat) by omega, pixelAt]
    dsimp only
    cases u.patHi.getLsbD (7 - (x - u.x.toNat)) <;> cases u.patLo.getLsbD (7 - (x - u.x.toNat)) <;> rfl
  · rw [if_neg hcov, if_neg (by omega)]

theorem SpriteUnit.shown_lt (u : SpriteUnit) (x : Nat) : u.shown x < 4 := by
  unfold SpriteUnit.shown
  split
  · exact pixelAt_lt _ _ _
  · decide

/-- The pixel a unit gives to the composition at column `x`. -/
def SpriteUnit.spritePixel (u : SpriteUnit) (x : Nat) : SpritePixel :=
  { pix := u.shown x, pal := u.attr.toNat % 4, behind := u.attr.getLsbD 5, isZero := u.isZero }

theorem firstSprite_eq (x : Nat) (l : List SpriteUnit) :
    firstSprite x l = ((l.find? fun u => decide (u.shown x ≠ 0)).map (·.spritePixel x)).getD .clear := by
  induction l with
  | nil => rfl
  | cons u rest ih =>
    unfold firstSprite
    rw [SpriteUnit.pixel_eq, ih, show (u.attr &&& 3).toNat = u.attr.toNat % 4 from toNat_lowField u.attr 2 (by decide)]
    by_cases hz : u.shown x = 0
    · rw [if_pos hz, List.find?_cons_of_neg (by simp [hz])]
    · rw [if_neg hz, List.find?_cons_of_pos (by simp [hz])]
      rfl

theorem Ppu.spritePixel_eq (p : Ppu) (x : Nat) : p.spritePixel x = ((p.spriteShown x).map (·.spritePixel x)).getD .clear := by
  unfold Ppu.spritePixel Ppu.spriteShown
  simp only [Bool.or_eq_true, Bool.and_eq_true, Bool.not_eq_true', decide_eq_true_eq]
  split
  · rfl
  · exact firstSprite_eq _ _

/-- The sprite that shows has an opaque pixel. -/
theorem Ppu.spriteShown_opaque {p : Ppu} {x : Nat} {u : SpriteUnit} (h : p.spriteShown x = some u) : u.shown x ≠ 0 := by
  unfold Ppu.spriteShown at h
  split at h
  · cases h
  · have hfound := List.find?_some h
    exact of_decide_eq_true hfound

/-- The priority table names the entry shown (R417). -/
theorem Ppu.composeIndex_eq (p : Ppu) (x : Nat) : composeIndex (p.bgPixel x).1 (p.bgPixel x).2 (p.spritePixel x) = p.entryShown x := by
  rw [Ppu.bgPixel_eq, Ppu.spritePixel_eq, Ppu.entryShown]
  cases hu : p.spriteShown x with
  | none =>
    show composeIndex _ _ .clear = if (p.bgShown x).1 = 0 then 0 else _
    by_cases hbg : (p.bgShown x).1 = 0
    · rw [if_pos hbg]
      exact if_pos ⟨hbg, rfl⟩
    · rw [if_neg hbg, composeIndex, if_neg (fun h => hbg h.1), if_neg hbg]
      exact if_pos rfl
  | some u =>
    have hop : ¬ (u.spritePixel x).pix = 0 := Ppu.spriteShown_opaque hu
    show composeIndex _ _ (u.spritePixel x) = if (p.bgShown x).1 ≠ 0 ∧ u.attr.getLsbD 5 = true then _ else _
    rw [composeIndex, if_neg (fun h => hop h.2)]
    by_cases hbg : (p.bgShown x).1 = 0
    · rw [if_pos hbg, if_neg (fun h => h.1 hbg)]
      rfl
    · rw [if_neg hbg, if_neg hop]
      exact if_congr (and_iff_right hbg).symm rfl rfl

/-- The entry shown is the backdrop or an entry that no other mirrors (R78). -/
theorem Ppu.entryShown_canonical (p : Ppu) (x : Nat) : p.entryShown x < 32 ∧ (p.entryShown x % 4 = 0 → p.entryShown x = 0) := by
  obtain ⟨hpix, hpal⟩ := p.bgShown_lt x
  unfold Ppu.entryShown
  cases hu : p.spriteShown x with
  | none =>
    dsimp only
    split <;> omega
  | some u =>
    have hop := Ppu.spriteShown_opaque hu
    have hlt := u.shown_lt x
    dsimp only
    split <;> omega

theorem Ppu.paletteRead_entry (p : Ppu) {i : Nat} (hi : i < 32) (hfold : i % 4 = 0 → i = 0) : p.paletteRead (paletteAddr i) = p.palette.read i := by
  have hmod : (paletteAddr i).toNat % 32 = i := by
    rw [paletteAddr, BitVec.toNat_ofNat]
    omega
  have hindex : paletteIndex (paletteAddr i) = i := by
    unfold paletteIndex
    rw [hmod]
    dsimp only
    split <;> omega
  rw [Ppu.paletteRead, hindex]

/-- The stored pixel of a colour (R419). -/
theorem Ppu.colour_toNat (p : Ppu) (v : Byte) : (p.colour v).toNat = p.pixelOf v := by
  have hgrey : ∀ b : Byte, (b &&& 0x30).toNat % 64 = b.toNat / 16 % 4 * 16 := by
    decide
  have hm := p.mask.isLt
  have hlow : ∀ b : Byte, (b.extractLsb' 0 6 ++ p.mask.extractLsb' 5 3 : BitVec 9).toNat = 8 * (b.toNat % 64) + p.mask.toNat / 32 := fun b => by
    have hemph : p.mask.toNat / 32 < 2 ^ 3 := by omega
    rw [BitVec.toNat_append, BitVec.extractLsb'_toNat, BitVec.extractLsb'_toNat, Nat.shiftRight_zero, Nat.shiftRight_eq_div_pow,
      Nat.mod_eq_of_lt (a := p.mask.toNat / 2 ^ 5) hemph, ← Nat.shiftLeft_add_eq_or_of_lt hemph, Nat.shiftLeft_eq, Nat.mul_comm]
  unfold Ppu.colour Ppu.pixelOf
  rw [hlow]
  cases p.mask.getLsbD 0
  · rfl
  · exact congrArg (8 * · + p.mask.toNat / 32) (hgrey v)

theorem Ppu.spritePixel_zero (p : Ppu) (x : Nat) :
    (p.spritePixel x).pix ≠ 0 ∧ (p.spritePixel x).isZero = true ↔ ∃ u, p.spriteShown x = some u ∧ u.isZero = true := by
  rw [Ppu.spritePixel_eq]
  cases hu : p.spriteShown x with
  | none => exact ⟨fun h => absurd rfl h.1, fun ⟨_, h, _⟩ => nomatch h⟩
  | some u => exact ⟨fun h => ⟨u, rfl, h.2⟩, fun ⟨_, h, hz⟩ => ⟨Ppu.spriteShown_opaque hu, Option.some.inj h ▸ hz⟩⟩

/-- Dots 1 to 256 while rendering: the pixel is output. -/
theorem Ppu.outputPixel_out {p : Ppu} (hwf : Pixels.wf p.pixels = true) (s x : Nat) : p.PixelOut s x (p.outputPixel s x) := by
  have hpixels : (p.outputPixel s x).pixels = Pixels.write p.pixels (256 * s + x) (p.colour (p.palette.read (p.entryShown x))) := by
    obtain ⟨hlt, hfold⟩ := p.entryShown_canonical x
    rw [Ppu.outputPixel]
    dsimp only
    rw [p.composeIndex_eq, p.paletteRead_entry hlt hfold]
  refine ⟨?_, fun i hi => ?_, ?_⟩
  · rw [hpixels, Pixels.read_write hwf, if_pos rfl, Ppu.colour_toNat]
  · rw [hpixels, Pixels.read_write hwf, if_neg hi]
  · rw [← p.spritePixel_zero, ← p.bgPixel_eq]
    simp only [Ppu.outputPixel, Bool.or_eq_true, Bool.and_eq_true, decide_eq_true_eq, ne_eq]
    tauto

theorem Ppu.PixelOut.congr {p q r : Ppu} {s x : Nat} (hpix : q.pixels = r.pixels) (hhit : q.spriteZeroHit = r.spriteZeroHit)
    (hr : p.PixelOut s x r) : p.PixelOut s x q := by
  obtain ⟨hshown, hothers, hiff⟩ := hr
  exact ⟨hpix ▸ hshown, hpix ▸ hothers, hhit ▸ hiff⟩

/-! ### The dot as a whole (R386) -/

section Dot

variable (mem : Buffers) (now : Nat) {p : Ppu} (hs : p.scanline ≤ 239) (c : Cart)
include hs

theorem Ppu.dotStep_clears (hr : p.rendering = true) (hd : p.dot = 1) {k : Nat} (hk : k < 32) :
    (p.dotStep mem now c).1.secOam.read k = 0xFF := by
  have hfig := Ppu.dotStep_rendered mem now hs hr c
  rw [Ppu.spriteDot, if_pos (by omega), Ppu.clearDot_outputPixel, Ppu.clearDot, if_pos hd] at hfig
  have hsec : (p.dotStep mem now c).1.secOam = clearedSecOam := (congrArg Ppu.secOam hfig :)
  have hall : ∀ k < 32, clearedSecOam.read k = 0xFF := by
    decide
  rw [hsec]
  exact hall k hk

theorem Ppu.dotStep_selects (hr : p.rendering = true) (hd : p.dot = 257) (hwf : p.secOam.wf = true) : p.Selected p.scanline (p.dotStep mem now c).1 := by
  have hfig := Ppu.dotStep_rendered mem now hs hr c
  rw [Ppu.spriteDot, if_neg (by omega), if_pos hd] at hfig
  exact .of_figure hfig (Ppu.selectSprites_selected hwf _ _)

theorem Ppu.dotStep_loads (hr : p.rendering = true) (hd : p.dot = 321) : p.SpritesLoaded (c.ppuSpace.read mem) p.scanline (p.dotStep mem now c).1 := by
  have hfig := Ppu.dotStep_rendered mem now hs hr c
  rw [Ppu.spriteDot, if_neg (by omega), if_neg (by omega), if_pos hd] at hfig
  exact .of_figure hfig (p.loadSprites_loaded mem now _ c)

theorem Ppu.dotStep_outputs (hr : p.rendering = true) (hd : 1 ≤ p.dot) (hd' : p.dot ≤ 256) (hwf : Pixels.wf p.pixels = true) :
    p.PixelOut p.scanline (p.dot - 1) (p.dotStep mem now c).1 := by
  have hfig := Ppu.dotStep_rendered mem now hs hr c
  rw [Ppu.spriteDot, if_pos ⟨hd, hd'⟩, Ppu.clearDot_outputPixel] at hfig
  exact .congr (r := p.outputPixel p.scanline (p.dot - 1)) (congrArg Ppu.pixels hfig :) (congrArg Ppu.spriteZeroHit hfig :) (Ppu.outputPixel_out hwf _ _)

theorem Ppu.dotStep_outputs_backdrop (hr : p.rendering = false) (hd : 1 ≤ p.dot) (hd' : p.dot ≤ 256) (hwf : Pixels.wf p.pixels = true) :
    (Pixels.read (p.dotStep mem now c).1.pixels (256 * p.scanline + (p.dot - 1))).toNat = p.pixelOf (p.palette.read 0) := by
  have hfig := Ppu.dotStep_backdrop mem now hs hr c
  rw [Ppu.backdropDot, if_pos ⟨hd, hd'⟩] at hfig
  have hpixels : (p.dotStep mem now c).1.pixels = _ := (congrArg Ppu.pixels hfig :)
  rw [hpixels]
  show (Pixels.read (Pixels.write p.pixels _ (p.colour (p.paletteRead (paletteAddr 0)))) _).toNat = _
  rw [Pixels.read_write hwf, if_pos rfl, Ppu.colour_toNat, p.paletteRead_entry (by decide) (fun _ => rfl)]

end Dot

/-- What a dot does to the frame counter and to vertical blank, and where it may touch the sprite flags. -/
theorem Ppu.dotStep_flags (mem : Buffers) (now : Nat) (p : Ppu) (c : Cart) :
    let q := (p.dotStep mem now c).1
    q.frame = (if p.scanline = 240 ∧ p.dot = 0 then p.frame + 1 else p.frame) ∧
    q.nmiOccurred = (if p.scanline = 241 ∧ p.dot = 1 then p.nmiOccurred || !p.suppressVbl
                     else if p.scanline = 261 ∧ p.dot = 1 then false else p.nmiOccurred) ∧
    (p.scanline = 261 → p.dot = 1 → q.spriteZeroHit = false ∧ q.spriteOverflow = false) ∧
    (q.spriteZeroHit ≠ p.spriteZeroHit →
      (p.scanline = 261 ∧ p.dot = 1) ∨ (p.scanline ≤ 239 ∧ p.rendering = true ∧ 1 ≤ p.dot ∧ p.dot ≤ 255)) ∧
    (q.spriteOverflow ≠ p.spriteOverflow → (p.scanline = 261 ∧ p.dot = 1) ∨ (p.scanline ≤ 239 ∧ p.rendering = true ∧ p.dot = 257)) := by
  intro q
  by_cases hs : p.scanline ≤ 239
  · obtain ⟨hframe, hvblank, hhit, hoverflow⟩ := p.dotStep_status_visible mem now hs c
    refine ⟨?_, ?_, fun h => by omega, fun h => .inr ⟨hs, hhit h⟩, fun h => .inr ⟨hs, hoverflow h⟩⟩
    · rw [if_neg (by omega)]
      exact hframe
    · rw [if_neg (by omega), if_neg (by omega)]
      exact hvblank
  · have hstatus : q.status = _ := p.dotStep_status_below mem now hs c
    have hframe : q.frame = _ := congrArg PictureStatus.frame hstatus
    have hvblank : q.nmiOccurred = _ := congrArg PictureStatus.vblank hstatus
    have hhit : q.spriteZeroHit = _ := congrArg PictureStatus.hit hstatus
    have hoverflow : q.spriteOverflow = _ := congrArg PictureStatus.overflow hstatus
    rw [hframe, hvblank, hhit, hoverflow]
    by_cases h240 : p.scanline = 240 ∧ p.dot = 0
    · rw [if_pos h240, if_pos h240, if_neg (by omega), if_neg (by omega)]
      exact ⟨rfl, rfl, fun h => by omega, fun h => absurd rfl h, fun h => absurd rfl h⟩
    · rw [if_neg h240, if_neg h240]
      by_cases h241 : p.scanline = 241 ∧ p.dot = 1
      · rw [if_pos h241, if_pos h241]
        exact ⟨rfl, rfl, fun h => by omega, fun h => absurd rfl h, fun h => absurd rfl h⟩
      · rw [if_neg h241, if_neg h241]
        by_cases h261 : p.scanline = 261 ∧ p.dot = 1
        · rw [if_pos h261, if_pos h261]
          exact ⟨rfl, rfl, fun _ _ => ⟨rfl, rfl⟩, fun _ => .inl h261, fun _ => .inl h261⟩
        · rw [if_neg h261, if_neg h261]
          exact ⟨rfl, rfl, fun h h' => absurd ⟨h, h'⟩ h261, fun h => absurd rfl h, fun h => absurd rfl h⟩

/-- Settles O52: the dot as a whole, part by part. -/
theorem rasterAndVblankDots : Obligations.RasterAndVblankDots := by
  intro mem now p c hv q
  obtain ⟨hframe, hvblank, hclear, hhit, hoverflow⟩ := p.dotStep_flags mem now c
  exact ⟨p.dotStep_position mem now hv c, hframe, hvblank, hclear,
    fun hs hr hd _ hk => p.dotStep_clears mem now hs c hr hd hk,
    fun hs hr hd hwf => p.dotStep_selects mem now hs c hr hd hwf,
    fun hs hr hd => p.dotStep_loads mem now hs c hr hd,
    fun hs hr hd hd' hwf => p.dotStep_outputs mem now hs c hr hd hd' hwf,
    fun hs hr hd hd' hwf => p.dotStep_outputs_backdrop mem now hs c hr hd hd' hwf, hhit, hoverflow⟩

end Sys2Proof.Machine
end
